-- ==== Sys2Proof/Word.lean ====
section
/-! DEFINITION. The word types of the block (00_scope.md R7, 10_state.md R14, 30_encoding.md R52). -/

namespace Sys2Proof

/-- An 8-bit value: an operand, a register `rate`, `delim`, `cursor`, a response byte. -/
abbrev Byte := BitVec 8

/-- A 32-bit word: a command word (R52) or the status word (R25). -/
abbrev Word := BitVec 32

/-- A 64-bit lane (R4, R14). -/
abbrev Lane := BitVec 64

/-- The lane file `S[0] .. S[24]` (R14): always exactly 25 lanes of 64 bits (R15). -/
abbrev Lanes := Vector Lane 25

/-- The all-zero lane file: reset and INIT (R30, R83). -/
def zeroLanes : Lanes := Vector.replicate 25 0

end Sys2Proof
end

