-- ==== Sys2Proof/Syntax.lean ====
section
/-! DEFINITION. The seven commands of the block (30_encoding.md R53, opcode_table.json), and the assembler's lines
(R61, R62). -/

namespace Sys2Proof

/-- The commands: one constructor per row of the opcode table. Every operand is an unsigned 8-bit value (R54). -/
inductive Instr where
  | nop
  | init (rate delim : Byte)
  | absorb (data : Byte)
  | finalize
  | squeeze
  | permute
  | peek (index : Byte)
  deriving DecidableEq, Repr

/-- The four variants the host configures (45_host_interface.md R99). -/
inductive Variant where
  | keccak224
  | keccak256
  | keccak384
  | keccak512
  deriving DecidableEq, Repr

/-- A byte operand as written: a number, or a character literal (R61). -/
inductive AsmByte where
  | num (n : Nat)
  | chr (c : Char)
  deriving DecidableEq, Repr

/-- One line of assembly: a command (R61) or a pseudo-command (R62), operands as written. -/
inductive AsmLine where
  | nop
  | init (rate delim : Nat)
  | absorb (b : AsmByte)
  | finalize
  | squeeze
  | permute
  | peek (index : Nat)
  | absorbs (bs : List AsmByte)
  | squeezen (n : Nat)
  | hash (rate delim : Nat) (bs : List AsmByte) (n : Nat)
  | keccak (v : Variant) (bs : List AsmByte)
  deriving DecidableEq, Repr

end Sys2Proof
end

