-- ==== Sys2Proof/Decode.lean ====
section
/-! DEFINITION. The decoder (30_encoding.md R52 to R60), total on all 2^32 words, and the encoder written from the
same tables. -/

namespace Sys2Proof

/-! ### The fields of a command word (R52) -/

/-- `OP = cmd[31:28]`. -/
def opField (w : Word) : BitVec 4 := w.extractLsb' 28 4

/-- `RSV = cmd[27:16]`. -/
def rsvField (w : Word) : BitVec 12 := w.extractLsb' 16 12

/-- `B = cmd[15:8]`, the second operand. -/
def bField (w : Word) : Byte := w.extractLsb' 8 8

/-- `A = cmd[7:0]`, the first operand. -/
def aField (w : Word) : Byte := w.extractLsb' 0 8

/-- What the decoder answers: a command, or one of the two named rejections (R60). -/
inductive Decoded where
  | instr (i : Instr)
  | reserved
  | illegal
  deriving DecidableEq, Repr

/-- The command if the condition on its unused fields holds, else Reserved (R57). -/
def decodedIf (ok : Bool) (i : Instr) : Decoded := if ok then .instr i else .reserved

/-- The decoder of R60. Range checks of `rate` and `index` are not its business. -/
def decode (w : Word) : Decoded :=
  if 7 ≤ (opField w).toNat then .illegal
  else if rsvField w ≠ 0 then .reserved
  else match (opField w).toNat with
    | 0 => decodedIf (aField w == 0 && bField w == 0) .nop
    | 1 => .instr (.init (aField w) (bField w))
    | 2 => decodedIf (bField w == 0) (.absorb (aField w))
    | 3 => decodedIf (aField w == 0 && bField w == 0) .finalize
    | 4 => decodedIf (aField w == 0 && bField w == 0) .squeeze
    | 5 => decodedIf (aField w == 0 && bField w == 0) .permute
    | 6 => decodedIf (bField w == 0) (.peek (aField w))
    | _ => .illegal

/-- The OP field names SQUEEZE or PEEK, the commands that have a response (R50). It is what decides on a response
for a word the decoder rejects as Reserved (log entry 3). -/
def wordResponds (w : Word) : Bool := opField w == 4 || opField w == 6

/-! ### The opcode table's (match, mask) pairs (R60) -/

/-- A row of the opcode table. -/
structure OpcodeRow where
  mnemonic : String
  pattern  : Word
  mask     : Word
  deriving DecidableEq, Repr

/-- The word belongs to the row: its masked bits are the row's pattern. -/
def OpcodeRow.covers (r : OpcodeRow) (w : Word) : Bool := w &&& r.mask == r.pattern

/-- The seven rows of the table, as R60 lists them. -/
def opcodeRows : List OpcodeRow :=
  [⟨"NOP", 0x00000000, 0xFFFFFFFF⟩, ⟨"INIT", 0x10000000, 0xFFFF0000⟩, ⟨"ABSORB", 0x20000000, 0xFFFFFF00⟩,
   ⟨"FINALIZE", 0x30000000, 0xFFFFFFFF⟩, ⟨"SQUEEZE", 0x40000000, 0xFFFFFFFF⟩,
   ⟨"PERMUTE", 0x50000000, 0xFFFFFFFF⟩, ⟨"PEEK", 0x60000000, 0xFFFFFF00⟩]

/-- The mnemonic of a command (R53). -/
def Instr.mnemonic : Instr → String
  | .nop => "NOP"
  | .init _ _ => "INIT"
  | .absorb _ => "ABSORB"
  | .finalize => "FINALIZE"
  | .squeeze => "SQUEEZE"
  | .permute => "PERMUTE"
  | .peek _ => "PEEK"

/-! ### The encoder -/

/-- A word from its fields, RSV zero (R52). -/
def packWord (op : BitVec 4) (b a : Byte) : Word := op ++ (0 : BitVec 12) ++ b ++ a

/-- The opcode of a command (R53). -/
def Instr.opcode : Instr → BitVec 4
  | .nop => 0x0
  | .init _ _ => 0x1
  | .absorb _ => 0x2
  | .finalize => 0x3
  | .squeeze => 0x4
  | .permute => 0x5
  | .peek _ => 0x6

/-- The word of a command: its operands in A and B, unused fields zero (R52, R53). -/
def encode : Instr → Word
  | .nop => packWord 0x0 0 0
  | .init rate delim => packWord 0x1 delim rate
  | .absorb data => packWord 0x2 0 data
  | .finalize => packWord 0x3 0 0
  | .squeeze => packWord 0x4 0 0
  | .permute => packWord 0x5 0 0
  | .peek index => packWord 0x6 0 index

/-- The 32-bit command word whose bits, numbered from bit 0 as the opcode table numbers them, are the low `nbits`
bits of `w`; the bits above are 0. -/
def tableWord (nbits w : Nat) : Word := BitVec.ofNat 32 (w % 2 ^ nbits)

/-- The command the decoder reads from that word, `none` where it rejects. -/
def decodeTableWord (nbits w : Nat) : Option Instr :=
  match decode (tableWord nbits w) with
  | .instr i => some i
  | .reserved => none
  | .illegal => none

end Sys2Proof
end

