-- ==== Sys2Proof/Config.lean ====
section
/-! DEFINITION. What the spec leaves to an implementation, and its free values. None has a body: a claim that
holds of the model holds for every value of them. -/

namespace Sys2Proof

/-- The value the hidden counter `round` is left with (10_state.md R27, R30: "any value"; log entry 1), one for
each time it is taken. -/
opaque Config.freeRound : Nat → Fin 24

/-- What the status fields other than BUSY read while BUSY = 1 (70_reset_and_hazards.md R136: "any value"; log
entry 1), one for each read. -/
opaque Config.freeStatus : Nat → Word

/-- `PERM_LATENCY` less one; the parameter is at least 1 (R138). -/
opaque Config.permLatencyLessOne : Nat

/-- `PERM_LATENCY`: the clock cycles a permutation adds to a command (R6, R138). -/
def Config.permLatency : Nat := Config.permLatencyLessOne + 1

/-- `CMD_LATENCY` less one; the parameter is at least 1 (R139). -/
opaque Config.cmdLatencyLessOne : Nat

/-- `CMD_LATENCY`: the clock cycles of a command that runs no permutation (R6, R139). -/
def Config.cmdLatency : Nat := Config.cmdLatencyLessOne + 1

/-- `THRESHOLD`, the selector's commitment threshold in bytes (R6, R104): host side, 100000 in the reference
configuration. -/
opaque Config.threshold : Nat

/-- `accel_digest(raw, delim)`, the target's accelerated primitive (R6, R107): host side. `none` is a call the
environment rejects (R108). -/
opaque Config.accelDigest : List Byte → Byte → Option (List Byte)

end Sys2Proof
end

