-- ==== Sys2Proof/Machine/State.lean ====
section
/-! DEFINITION. The state of the block, its reset value, and the ways a step can stop. -/

namespace Sys2Proof.Machine

/-- The sponge FSM (10_state.md R20). The encoding 0b11 is never written and cannot be held (X15). -/
inductive Fsm where
  | idle
  | absorbing
  | squeezing
  deriving DecidableEq, Repr

/-- The error codes (60_exceptions.md R112). Codes 6 and 7 are never written. -/
inductive ErrCode where
  | none
  | illegalOpcode
  | reservedField
  | badState
  | badRate
  | badIndex
  deriving DecidableEq, Repr

/-- What the host does next at the ports (30_encoding.md R48 to R51). -/
inductive HostEvent where
  /-- It offers the command word and holds it until it is accepted (R49, R143). -/
  | command (w : Word)
  /-- It offers the word at one edge only and withdraws it if that edge does not accept it (R143). -/
  | commandWithdrawn (w : Word)
  /-- It drives `rsp_ready` to this level (R50). -/
  | rspReady (level : Bool)
  /-- It holds `rst` = 1 at one rising edge (R128). -/
  | reset
  /-- It reads the status word (R25, R51). -/
  | readStatus
  deriving DecidableEq, Repr

/-- Everything the spec gives the block (10_state.md), and after it the block's inputs and the two streams it
shares with the host (20_memory.md R34). -/
structure State where
  /-- `S[0] .. S[24]` (R14). -/
  lanes       : Lanes
  /-- Bytes exposed per block; 0 only in IDLE (R17). -/
  rate        : Byte
  /-- The domain-separation delimiter (R18). -/
  delim       : Byte
  /-- The offset into the current block (R19). -/
  cursor      : Byte
  fsm         : Fsm
  /-- The sticky error flag (R22): the block is locked while it is set. -/
  err         : Bool
  errCode     : ErrCode
  /-- A command is in progress (R24). Between two steps it is set only while a response byte waits (log entry 7). -/
  busy        : Bool
  /-- The hidden round counter (R27); no rule reads it. -/
  round       : Fin 24
  /-- The response holding register: a valid bit and a byte (R28). -/
  rspPending  : Option Byte
  /-- The level of the input pin `rsp_ready` (R48). -/
  rspReady    : Bool
  /-- What the host will do, first event first: the command stream and the other inputs. -/
  host        : List HostEvent
  /-- The response stream: the bytes delivered, oldest first. -/
  responses   : List Byte
  /-- The status words the host has read, oldest first. -/
  statusReads : List Word
  /-- The MODEL's own: how many free values have been taken (log entry 1). -/
  free        : Nat
  deriving DecidableEq, Repr

/-- The machine stops with a fault. -/
inductive Fault where
  /-- A command used a state byte index of 200 or more, which the state byte space does not have (20_memory.md
  R34, R44). Raised by ABSORB, FINALIZE and SQUEEZE, and only in a state that breaks the invariant of R21, which no
  run reaches. Safe: nothing is provable of what follows (log entry 6). -/
  | byteIndexOutside
  deriving DecidableEq, Repr

/-- The model gives no meaning. -/
inductive Refusal where
  /-- An instruction the model has no meaning for; no arm of `exec` raises it. Safe. -/
  | notModelled (mnemonic : String)
  /-- The host withdrew or changed an offered command word before its acceptance, which is outside the spec
  (70_reset_and_hazards.md R143: "a model refuses such a host"). Raised by the step on that event. Safe. -/
  | offeredWordWithdrawn
  deriving DecidableEq, Repr

/-- The machine right after reset (10_state.md R30, 70_reset_and_hazards.md R128). `round` is 0 by DESIGN CHOICE,
unsafe (R30: "any value"; log entry 1); the inputs are idle, `rsp_ready` high, and the streams empty (log entry 4). -/
def State.reset : State where
  lanes       := zeroLanes
  rate        := 0
  delim       := 0
  cursor      := 0
  fsm         := .idle
  err         := false
  errCode     := .none
  busy        := false
  round       := 0
  rspPending  := none
  rspReady    := true
  host        := []
  responses   := []
  statusReads := []
  free        := 0

end Sys2Proof.Machine
end

