-- ==== Sys2Proof/Machine/Flags.lean ====
section
/-! DEFINITION. The error bits (10_state.md R22, R23) and the status word (R25, R136). The block has no condition
codes (R26). -/

namespace Sys2Proof.Machine

/-- The 2-bit encoding of the FSM register (R20). -/
def fsmBits : Fsm → BitVec 2
  | .idle => 0b00
  | .absorbing => 0b01
  | .squeezing => 0b10

/-- The 3-bit error code (R112). -/
def errBits : ErrCode → BitVec 3
  | .none => 0
  | .illegalOpcode => 1
  | .reservedField => 2
  | .badState => 3
  | .badRate => 4
  | .badIndex => 5

/-- The error record of `raise Error(code)` (R113): the two error bits and nothing else (R117). -/
def State.setError (code : ErrCode) (s : State) : State := { s with err := true, errCode := code }

/-- The status word of the registers (R25), high field first: DELIM, RATE, CURSOR, 0, ECODE, ERR, BUSY, FSM. -/
def statusOfRegisters (s : State) : Word :=
  s.delim ++ s.rate ++ s.cursor ++ (0 : BitVec 1) ++ errBits s.errCode ++ BitVec.ofBool s.err ++
    BitVec.ofBool s.busy ++ fsmBits s.fsm

/-- A status word while BUSY = 1 (R25, R136): BUSY (bit 2) reads 1, bit 7 reads 0, every field any value. -/
def busyStatus (any : Word) : Word := (any &&& 0xFFFFFF7F) ||| 0x00000004

/-- The status output (R51): exact while BUSY = 0, any value in the fields while BUSY = 1 (R136). -/
def statusWord (s : State) : Word :=
  if s.busy then busyStatus (Config.freeStatus s.free) else statusOfRegisters s

end Sys2Proof.Machine
end

