-- ==== Sys2Proof/Machine/Keccak.lean ====
section
/-! DEFINITION. The permutation Keccak-f[1600] (40_permutation.md R64 to R77) on a lane file, and the chain form of
rho and pi that R74 says must equal it. -/

namespace Sys2Proof.Machine

/-- `ROTL64(v, n)` for 0 ≤ n < 64 (00_scope.md R8): bit i moves to bit (i + n) mod 64. -/
def rotl64 (v : Lane) (n : Nat) : Lane := (v <<< n) ||| (v >>> (64 - n))

/-- The lane index `x + 5*y` of column x and row y (R14, R64). -/
def laneIndex (x y : Fin 5) : Fin 25 := ⟨x.val + 5 * y.val, by omega⟩

/-- `A[x, y]` (R64). Arithmetic on `Fin 5` is mod 5, as R64 asks of coordinates. -/
def laneAt (A : Lanes) (x y : Fin 5) : Lane := A[laneIndex x y]

/-- The lane file with `f x y` at column x and row y. -/
def mkLanes (f : Fin 5 → Fin 5 → Lane) : Lanes :=
  #v[f 0 0, f 1 0, f 2 0, f 3 0, f 4 0,
     f 0 1, f 1 1, f 2 1, f 3 1, f 4 1,
     f 0 2, f 1 2, f 2 2, f 3 2, f 4 2,
     f 0 3, f 1 3, f 2 3, f 3 3, f 4 3,
     f 0 4, f 1 4, f 2 4, f 3 4, f 4 4]

/-- Five values, one for each column. -/
def mkColumns (f : Fin 5 → Lane) : Vector Lane 5 := #v[f 0, f 1, f 2, f 3, f 4]

/-- The rotation offsets `RHO[x + 5*y]` (R68). -/
def rhoOffsets : Vector Nat 25 :=
  #v[0, 1, 62, 28, 27, 36, 44, 6, 55, 20, 3, 10, 43, 25, 39, 41, 45, 15, 21, 8, 18, 2, 61, 56, 14]

/-- The table of R72 as the spec prints it: row r holds `RC[r]` and `RC[r + 12]`. -/
def roundConstantRows : Vector (Lane × Lane) 12 :=
  #v[(0x0000000000000001, 0x000000008000808B),
     (0x0000000000008082, 0x800000000000008B),
     (0x800000000000808A, 0x8000000000008089),
     (0x8000000080008000, 0x8000000000008003),
     (0x000000000000808B, 0x8000000000008002),
     (0x0000000080000001, 0x8000000000000080),
     (0x8000000080008081, 0x000000000000800A),
     (0x8000000000008009, 0x800000008000000A),
     (0x000000000000008A, 0x8000000080008081),
     (0x0000000000000088, 0x8000000000008080),
     (0x0000000080008009, 0x0000000080000001),
     (0x000000008000000A, 0x8000000080008008)]

/-- `RC[ir]`, read from the constant ROM (R72, 10_state.md R29). -/
def roundConstant (ir : Fin 24) : Lane :=
  if h : ir.val < 12 then roundConstantRows[ir.val].1 else (roundConstantRows[ir.val - 12]'(by omega)).2

/-- theta's column parities `C[x]` (R65). -/
def thetaParity (A : Lanes) : Vector Lane 5 :=
  mkColumns fun x => laneAt A x 0 ^^^ laneAt A x 1 ^^^ laneAt A x 2 ^^^ laneAt A x 3 ^^^ laneAt A x 4

/-- theta's `D[x] = C[(x-1) mod 5] ^ ROTL64(C[(x+1) mod 5], 1)` (R66). -/
def thetaMix (C : Vector Lane 5) : Vector Lane 5 :=
  mkColumns fun x => C[x - 1] ^^^ rotl64 C[x + 1] 1

/-- theta (R67). -/
def theta (A : Lanes) : Lanes :=
  let D := thetaMix (thetaParity A)
  mkLanes fun x y => laneAt A x y ^^^ D[x]

/-- rho (R69). -/
def rho (A : Lanes) : Lanes :=
  mkLanes fun x y => rotl64 (laneAt A x y) rhoOffsets[laneIndex x y]

/-- pi, as the gather of R70: `A[x,y] <- B[(x + 3*y) mod 5, x]`. -/
def piStep (B : Lanes) : Lanes :=
  mkLanes fun x y => laneAt B (x + 3 * y) x

/-- chi (R71). -/
def chi (B : Lanes) : Lanes :=
  mkLanes fun x y => laneAt B x y ^^^ (~~~ laneAt B (x + 1) y &&& laneAt B (x + 2) y)

/-- iota of round `ir` (R73): the round's constant into the lane `A[0,0] = S[0]` only. -/
def iota (A : Lanes) (ir : Fin 24) : Lanes := A.set 0 (A[0] ^^^ roundConstant ir)

/-- `Round(A, ir)`: the five steps in order (R75). -/
def keccakRound (A : Lanes) (ir : Fin 24) : Lanes := iota (chi (piStep (rho (theta A)))) ir

/-- Keccak-f[1600]: rounds 0 to 23 in increasing order (R76). -/
def keccakF (A : Lanes) : Lanes := (List.finRange 24).foldl keccakRound A

/-! ### The chain form of R74 -/

/-- The chain's (position, offset) pairs in order (R74). -/
def chainMoves : List (Fin 25 × Nat) :=
  [(10, 1), (7, 3), (11, 6), (17, 10), (18, 15), (3, 21), (5, 28), (16, 36), (8, 45), (21, 55), (24, 2), (4, 14),
   (15, 27), (23, 41), (19, 56), (13, 8), (12, 25), (2, 43), (20, 62), (14, 18), (22, 39), (9, 61), (6, 20), (1, 44)]

/-- One move of the chain: save the lane at the position and write there the lane saved before, rotated. -/
def chainMove (acc : Lanes × Lane) (m : Fin 25 × Nat) : Lanes × Lane :=
  (acc.1.set m.1 (rotl64 acc.2 m.2), acc.1[m.1])

/-- rho and pi computed in place as one chain of 24 lane moves, starting with the saved lane `A[1,0]` (R74). -/
def rhoPiChain (A : Lanes) : Lanes := (chainMoves.foldl chainMove (A, laneAt A 1 0)).1

end Sys2Proof.Machine
end

