-- ==== Sys2Proof/Machine/Operands.lean ====
section
/-! DEFINITION. The byte view of the lanes (20_memory.md R36, R37) and the operand checks of the commands. -/

namespace Sys2Proof.Machine

/-- The lane that holds state byte k: `k div 8` (R36). -/
def byteLane (k : Fin 200) : Fin 25 := ⟨k.val / 8, by omega⟩

/-- The bit of that lane at which byte k begins: `8*(k mod 8)` (R36). -/
def byteShift (k : Fin 200) : Nat := 8 * (k.val % 8)

/-- `StateByte(k)` of a lane file (R36): little-endian within the lane. -/
def stateByte (A : Lanes) (k : Fin 200) : Byte := A[byteLane k].extractLsb' (byteShift k) 8

/-- `XorStateByte(k, v)` on a lane file (R37). -/
def xorStateByte (A : Lanes) (k : Fin 200) (v : Byte) : Lanes :=
  A.set (byteLane k) (A[byteLane k] ^^^ (v.setWidth 64 <<< byteShift k))

/-- A byte register or operand as an index into the state byte space, `none` for 200 to 255, which the space does
not have (R34, R44). -/
def byteIndex (k : Byte) : Option (Fin 200) := if h : k.toNat < 200 then some ⟨k.toNat, h⟩ else none

/-- INIT's rate operand is legal: 1 to 200 (R55, R83). -/
def rateLegal (rate : Byte) : Bool := decide (1 ≤ rate.toNat ∧ rate.toNat ≤ 200)

/-- The command has a response: SQUEEZE and PEEK, and no other (R50). -/
def responds : Instr → Bool
  | .nop => false
  | .init _ _ => false
  | .absorb _ => false
  | .finalize => false
  | .squeeze => true
  | .permute => false
  | .peek _ => true

end Sys2Proof.Machine
end

