-- ==== Sys2Proof/Machine/Ops.lean ====
section
/-! DEFINITION. The shared operations of the commands: the primitives of 00_scope.md R9 on State, raising an error
(60_exceptions.md R113), the lock (R115), the response port (30_encoding.md R50) and reset (70_reset_and_hazards.md
R128). -/

namespace Sys2Proof.Machine

/-- What a command or a step answers. -/
abbrev Outcome := Host.Outcome State Fault Refusal

/-- Do `f` in the state that `o` leaves; a stop stays a stop. -/
def andThen (o : Outcome) (f : State → Outcome) : Outcome :=
  match o with
  | .next s => f s
  | .fault r => .fault r
  | .refused r => .refused r

/-- The next state, if there is one. -/
def nextState (o : Outcome) : Option State :=
  match o with
  | .next s => some s
  | .fault _ => none
  | .refused _ => none

/-! ### Registers -/

/-- `S <- A`. -/
def State.setLanes (A : Lanes) (s : State) : State := { s with lanes := A }

/-- `cursor <- c`. -/
def State.setCursor (c : Byte) (s : State) : State := { s with cursor := c }

/-- `fsm <- f`. -/
def State.setFsm (f : Fsm) (s : State) : State := { s with fsm := f }

/-- The hidden counter is left with any value (R27, R30): the next free value. -/
def State.freeRound (s : State) : State := { s with round := Config.freeRound s.free, free := s.free + 1 }

/-- The register writes of INIT (R83). -/
def State.configure (rate delim : Byte) (s : State) : State :=
  { s with lanes := zeroLanes, rate := rate, delim := delim, cursor := 0, fsm := .absorbing }

/-- `Permute()` (R77): all 25 lanes at once, no other register but the hidden counter. -/
def State.permute (s : State) : State := (s.setLanes (keccakF s.lanes)).freeRound

/-- `XorStateByte(k, v)` on the block (R37); an index the space does not have stops (R34). -/
def State.xorByte (k v : Byte) (s : State) : Outcome :=
  match byteIndex k with
  | some i => .next (s.setLanes (xorStateByte s.lanes i v))
  | none => .fault .byteIndexOutside

/-! ### The response port -/

/-- The byte in the holding register is delivered if the host takes it, and the command completes (R50, R135). -/
def State.deliver (s : State) : State :=
  match s.rspPending with
  | some b =>
    if s.rspReady then { s with responses := s.responses ++ [b], rspPending := none, busy := false } else s
  | none => s

/-- `emit(b)` (R50): load the holding register; the command stays in progress until the byte is delivered. -/
def State.emit (b : Byte) (s : State) : State := State.deliver { s with rspPending := some b, busy := true }

/-- Emit state byte k (R88, R90), then do `f`; an index the space does not have stops (R34). -/
def State.emitByte (k : Byte) (s : State) (f : State → State) : Outcome :=
  match byteIndex k with
  | some i => .next (f (s.emit (stateByte s.lanes i)))
  | none => .fault .byteIndexOutside

/-! ### Errors and the lock -/

/-- The response byte 0x00 of a command that has a response and fails or is discarded (R118); nothing for another. -/
def State.emitZeroIf (hasResponse : Bool) (s : State) : State := if hasResponse then s.emit 0x00 else s

/-- `raise Error(code)` (R113): the one way a command takes an error. It records the code, locks the block and ends
the command with no other effect but the response byte 0x00 (R117, R118). There is no handler and no return (R119). -/
def raiseError (hasResponse : Bool) (code : ErrCode) (s : State) : Outcome :=
  .next ((s.setError code).emitZeroIf hasResponse)

/-- The lock check every command begins with (R115): while `err` = 1 the command is discarded, and one that has a
response still emits 0x00. -/
def unlessLocked (hasResponse : Bool) (s : State) (body : Outcome) : Outcome :=
  if s.err then .next (s.emitZeroIf hasResponse) else body

/-- The decode errors of a word (R57, R58), after the lock check (R115). -/
def rejectWord (hasResponse : Bool) (code : ErrCode) (s : State) : Outcome :=
  unlessLocked hasResponse s (raiseError hasResponse code s)

/-! ### Events that are not commands -/

/-- The rising edge with `rst` = 1 (R128): every register takes its reset value, a byte not yet taken is discarded
(R129), and `round` is any value (R30). What the host holds (its inputs, the bytes already delivered) stays. -/
def State.resetEdge (s : State) : State :=
  State.freeRound
    { s with lanes := zeroLanes, rate := 0, delim := 0, cursor := 0, fsm := .idle, err := false, errCode := .none,
             busy := false, rspPending := none }

/-- The host drives `rsp_ready`; a waiting byte is delivered as soon as the pin is 1 (R50). -/
def State.setRspReady (level : Bool) (s : State) : State := State.deliver { s with rspReady := level }

/-- The host reads the status word (R25, R51): no state of the block changes. A read while busy takes a free value. -/
def State.readStatus (s : State) : State :=
  { s with statusReads := s.statusReads ++ [statusWord s], free := if s.busy then s.free + 1 else s.free }

end Sys2Proof.Machine
end

