-- ==== Sys2Proof/Machine/Permutation.lean ====
section
/-! DEFINITION. The command PERMUTE (40_permutation.md R78). -/

namespace Sys2Proof.Machine

/-- PERMUTE (R78): legal in every FSM state. -/
def execPermute (s : State) : Outcome :=
  unlessLocked false s (.next s.permute)

end Sys2Proof.Machine
end

