-- ==== Sys2Proof/Machine/Sponge.lean ====
section
/-! DEFINITION. The commands of the sponge FSM (41_sponge.md R81 to R90). -/

namespace Sys2Proof.Machine

/-- NOP (R82): no effect, in every FSM state. -/
def execNop (s : State) : Outcome :=
  unlessLocked false s (.next s)

/-- INIT rate, delim (R83): legal in every FSM state. -/
def execInit (rate delim : Byte) (s : State) : Outcome :=
  unlessLocked false s <|
    if rateLegal rate then .next (s.configure rate delim) else raiseError false .badRate s

/-- What ABSORB does once the byte is in: advance, and permute when the block is full (R84). -/
def State.advanceAbsorb (s : State) : State :=
  let s1 := s.setCursor (s.cursor + 1)
  if s1.cursor = s1.rate then s1.permute.setCursor 0 else s1

/-- ABSORB data (R84). -/
def execAbsorb (data : Byte) (s : State) : Outcome :=
  unlessLocked false s <|
    if s.fsm = .absorbing then andThen (s.xorByte s.cursor data) fun s1 => .next s1.advanceAbsorb
    else raiseError false .badState s

/-- FINALIZE (R86): the two padding bytes, in order, then the final permutation. -/
def execFinalize (s : State) : Outcome :=
  unlessLocked false s <|
    if s.fsm = .absorbing then
      andThen (s.xorByte s.cursor s.delim) fun s1 =>
      andThen (s1.xorByte (s1.rate - 1) 0x80) fun s2 =>
      .next ((s2.permute.setCursor 0).setFsm .squeezing)
    else raiseError false .badState s

/-- What SQUEEZE does first: a used-up block is permuted and the cursor starts again (R88). -/
def State.startBlock (s : State) : State :=
  if s.cursor = s.rate then s.permute.setCursor 0 else s

/-- SQUEEZE (R88): emit the byte at the cursor, then advance. -/
def execSqueeze (s : State) : Outcome :=
  unlessLocked true s <|
    if s.fsm = .squeezing then
      s.startBlock.emitByte s.startBlock.cursor fun s2 => s2.setCursor (s2.cursor + 1)
    else raiseError true .badState s

/-- PEEK index (R90): emit any state byte, in every FSM state. -/
def execPeek (index : Byte) (s : State) : Outcome :=
  unlessLocked true s <|
    if index.toNat > 199 then raiseError true .badIndex s else s.emitByte index id

end Sys2Proof.Machine
end

