-- ==== Sys2Proof/Machine/Dispatch.lean ====
section
/-! DEFINITION. One arm per command. -/

namespace Sys2Proof.Machine

def exec (i : Instr) (s : State) : Host.Outcome State Fault Refusal :=
  match i with
  | .nop => Sys2Proof.Machine.execNop s
  | .init rate delim => Sys2Proof.Machine.execInit rate delim s
  | .absorb data => Sys2Proof.Machine.execAbsorb data s
  | .finalize => Sys2Proof.Machine.execFinalize s
  | .squeeze => Sys2Proof.Machine.execSqueeze s
  | .permute => Sys2Proof.Machine.execPermute s
  | .peek index => Sys2Proof.Machine.execPeek index s

end Sys2Proof.Machine
end

