-- ==== Sys2Proof/Machine/Ports.lean ====
section
/-! DEFINITION. The block's outputs (30_encoding.md R48 to R51) as functions of its state and of the level of `rst`. -/

namespace Sys2Proof.Machine

/-- `cmd_ready`: 1 exactly when `busy` = 0 and `rst` = 0 (R49, R128). -/
def cmdReady (rst : Bool) (s : State) : Bool := !s.busy && !rst

/-- `rsp_valid` and `rsp_data`: the byte offered, if one is (R50); none while `rst` = 1 (R128). -/
def rspOffered (rst : Bool) (s : State) : Option Byte := if rst then none else s.rspPending

/-- `rsp_valid` (R50, R128). -/
def rspValid (rst : Bool) (s : State) : Bool := (rspOffered rst s).isSome

end Sys2Proof.Machine
end

