-- ==== Sys2Proof/Machine/Accept.lean ====
section
/-! DEFINITION. How a command word is accepted and run, and what the other events of the host do (30_encoding.md R49
to R51, R60; 70_reset_and_hazards.md R128, R135, R143). -/

namespace Sys2Proof.Machine

/-- An accepted command word: decode it and run the command, or raise the error of a word the decoder rejects
(R57, R58, R60). -/
def acceptWord (w : Word) (s : State) : Outcome :=
  match decode w with
  | .instr i => exec i s
  | .reserved => rejectWord (wordResponds w) .reservedField s
  | .illegal => rejectWord false .illegalOpcode s

/-- One event of the host, `rest` being what it does after. A word offered while `cmd_ready` = 0 is neither accepted
nor lost: the host holds it (R49, R143), and nothing changes (R135, R142). -/
def serveEvent (e : HostEvent) (rest : List HostEvent) (s : State) : Outcome :=
  match e with
  | .command w => if cmdReady false s then acceptWord w { s with host := rest } else .next s
  | .commandWithdrawn w =>
    if cmdReady false s then acceptWord w { s with host := rest } else .refused .offeredWordWithdrawn
  | .rspReady level => .next (State.setRspReady level { s with host := rest })
  | .reset => .next (State.resetEdge { s with host := rest })
  | .readStatus => .next (State.readStatus { s with host := rest })

/-- The state with a command word first in the host's list and the block ready for it: no command in progress and no
response waiting (R49). -/
def State.offerFirst (w : Word) (s : State) : State :=
  { s with host := .command w :: s.host, busy := false, rspPending := none }

end Sys2Proof.Machine
end

