-- ==== Sys2Proof/Machine/Step.lean ====
section
/-! DEFINITION. One step: the host's next event, a command being one step whole (00_scope.md R10, 20_memory.md R42). -/

namespace Sys2Proof.Machine

/-- One step. With nothing from the host the block holds its state (60_exceptions.md R127). -/
def step (s : State) : Host.Outcome State Fault Refusal :=
  match s.host with
  | [] => .next s
  | e :: rest => serveEvent e rest s

/-- The state with the table word offered first, so that the next step accepts and runs it (log entry 5). -/
def State.withFetchWord (s : State) (nbits w : Nat) : State := s.offerFirst (tableWord nbits w)

end Sys2Proof.Machine
end

