-- ==== Sys2Proof/Machine/Sequences.lean ====
section
/-! DEFINITION. Command sequences: their effect is the sequential composition of the commands (20_memory.md R45). -/

namespace Sys2Proof.Machine

/-- The commands of the list, one after the other (R45). -/
def runCommands : List Instr → State → Outcome
  | [], s => .next s
  | i :: is, s => andThen (exec i s) (runCommands is)

/-- The host that offers these commands in order (R49). -/
def offers (is : List Instr) : List HostEvent := is.map fun i => .command (encode i)

/-- `update(bytes)` as commands (45_host_interface.md R100). -/
def updateCommands (bytes : List Byte) : List Instr := bytes.map .absorb

/-- `finalize(output_buffer)` of length n as commands (R101). -/
def finalizeCommands (n : Nat) : List Instr := .finalize :: List.replicate n .squeeze

/-- A whole computation: INIT, the input, FINALIZE, n output bytes (R62 HASH, R131). -/
def hashCommands (rate delim : Byte) (bytes : List Byte) (n : Nat) : List Instr :=
  .init rate delim :: (updateCommands bytes ++ finalizeCommands n)

/-- The bytes the block delivers for a whole computation started from reset (R109). -/
def blockOutput (rate delim : Byte) (bytes : List Byte) (n : Nat) : Option (List Byte) :=
  (nextState (runCommands (hashCommands rate delim bytes n) State.reset)).map fun t => t.responses

end Sys2Proof.Machine
end

