-- ==== Sys2Proof/Machine/HostDriver.lean ====
section
/-! DEFINITION. The host's side (45_host_interface.md R98 to R110): the variants, the two strategies behind one interface
and the Adaptive Strategy Selector. None of it is the block; it says which commands a host issues. -/

namespace Sys2Proof.Machine

/-- The security level of a variant in bits (R99). -/
def securityLevel : Variant → Nat
  | .keccak224 => 224
  | .keccak256 => 256
  | .keccak384 => 384
  | .keccak512 => 512

/-- `rate = 200 - 2*(bits/8)` (R99). -/
def variantRate (v : Variant) : Nat := 200 - 2 * (securityLevel v / 8)

/-- The digest's length in bytes, `bits / 8` (R99). -/
def digestLength (v : Variant) : Nat := securityLevel v / 8

/-- The sponge instance a hasher owns: the block, as the hasher's INIT configures it (R103). -/
structure SpongeInstance where
  rate  : Byte
  delim : Byte
  deriving DecidableEq, Repr

/-- The INIT command that configures the instance. -/
def SpongeInstance.init (sp : SpongeInstance) : Instr := .init sp.rate sp.delim

/-- The sponge instance of a variant, delimiter 0x01 (R99). -/
def variantSponge (v : Variant) : SpongeInstance := { rate := BitVec.ofNat 8 (variantRate v), delim := 0x01 }

/-- The INIT command of a variant (R99). -/
def variantInit (v : Variant) : Instr := (variantSponge v).init

/-- The commands of a variant's digest (R62, R99). -/
def variantCommands (v : Variant) (bytes : List Byte) : List Instr :=
  hashCommands (variantSponge v).rate (variantSponge v).delim bytes (digestLength v)

/-! ### A hasher and its strategy (R102, R103) -/

/-- Which strategy a hasher follows (R102). -/
inductive Strategy where
  /-- Direct-Sponge: no buffering, no commitment. -/
  | direct
  /-- The Adaptive Strategy Selector. -/
  | adaptive
  deriving DecidableEq, Repr

/-- What a hasher is constructed from: "at construction time via configuration" (R102). -/
structure HasherConfig where
  strategy : Strategy
  sponge   : SpongeInstance
  deriving DecidableEq, Repr

/-- The configuration of a variant under a strategy (R99, R102). -/
def variantConfig (st : Strategy) (v : Variant) : HasherConfig := { strategy := st, sponge := variantSponge v }

/-- How `finalize(output_buffer)` ends, for either strategy. -/
inductive HasherFinal where
  /-- The block gets these commands (R101) and the output is its responses. -/
  | commands (is : List Instr)
  /-- The output is the accelerated primitive's digest, and the block gets no command (R107). It is the whole digest
  slice, whatever the output length asked for: DESIGN CHOICE, log entry 14. -/
  | digest (bytes : List Byte)
  /-- The primitive rejected the call: fatal, never a digest (R108). -/
  | fatal
  deriving DecidableEq, Repr

/-- The commands a finalize gives the block. -/
def HasherFinal.issued : HasherFinal → List Instr
  | .commands is => is
  | .digest _ => []
  | .fatal => []

/-! ### The Adaptive Strategy Selector (R103 to R109) -/

/-- The selector's two-state machine (R103): it holds the raw bytes in order, or has committed to the live sponge, never
both. No transition leads back from `committed`. -/
inductive SelectorPhase where
  | buffering (raw : List Byte)
  | committed
  deriving DecidableEq, Repr

/-- The selector (R103): its two-state machine and the sponge instance it owns. -/
structure Selector where
  sponge : SpongeInstance
  phase  : SelectorPhase
  deriving DecidableEq, Repr

/-- A selector as constructed: an empty buffer, not committed. -/
def Selector.fresh (sp : SpongeInstance) : Selector := { sponge := sp, phase := .buffering [] }

/-- The "committed-to-slow-path" flag (R103). -/
def Selector.isCommitted (sel : Selector) : Bool :=
  match sel.phase with
  | .buffering _ => false
  | .committed => true

/-- Commit (R105): flush the raw buffer into the sponge, then forward the new bytes. -/
def Selector.commit (sel : Selector) (raw bytes : List Byte) : Selector × List Instr :=
  ({ sel with phase := .committed }, updateCommands raw ++ updateCommands bytes)

/-- `update(bytes)` of the selector (R104 to R106): its next state and the commands it issues. -/
def Selector.update (sel : Selector) (bytes : List Byte) : Selector × List Instr :=
  match sel.phase with
  | .buffering raw =>
    if raw.length + bytes.length ≤ Config.threshold then ({ sel with phase := .buffering (raw ++ bytes) }, [])
    else sel.commit raw bytes
  | .committed => (sel, updateCommands bytes)

/-- `finalize(output_buffer)` of length n (R107, R108): while buffering, the primitive over the whole raw buffer with the
delimiter of the owned instance, the one its INIT gave the block; once committed, the commands of R101. While buffering
n is not used: what n bytes of output are when the digest slice is not n bytes long is open in the spec (X1, N19), and
that the slice is returned whole is the model's DESIGN CHOICE (log entry 14). -/
def Selector.finalize (sel : Selector) (n : Nat) : HasherFinal :=
  match sel.phase with
  | .committed => .commands (finalizeCommands n)
  | .buffering raw =>
    match Config.accelDigest raw sel.sponge.delim with
    | some d => .digest d
    | none => .fatal

/-! ### The interface, the same for both strategies (R100 to R102) -/

/-- A hasher: the strategy it was constructed with and what that strategy keeps. -/
inductive Hasher where
  | direct (sponge : SpongeInstance)
  | adaptive (sel : Selector)
  deriving DecidableEq, Repr

/-- Construction: the configuration picks the strategy (R102), and the owned block is configured by INIT (R98, R103,
R131). -/
def Hasher.construct (c : HasherConfig) : Hasher × List Instr :=
  match c.strategy with
  | .direct => (.direct c.sponge, [c.sponge.init])
  | .adaptive => (.adaptive (Selector.fresh c.sponge), [c.sponge.init])

/-- `update(bytes)`: the direct strategy always issues the commands of R100 (R102). -/
def Hasher.update (h : Hasher) (bytes : List Byte) : Hasher × List Instr :=
  match h with
  | .direct sp => (.direct sp, updateCommands bytes)
  | .adaptive sel => (.adaptive (sel.update bytes).1, (sel.update bytes).2)

/-- Any number of `update` calls, in order (R100). -/
def Hasher.updates : Hasher → List (List Byte) → Hasher × List Instr
  | h, [] => (h, [])
  | h, bytes :: more =>
    let first := h.update bytes
    let rest := Hasher.updates first.1 more
    (rest.1, first.2 ++ rest.2)

/-- `finalize(output_buffer)` of length n: the direct strategy always issues the commands of R101 (R102). -/
def Hasher.finalize (h : Hasher) (n : Nat) : HasherFinal :=
  match h with
  | .direct _ => .commands (finalizeCommands n)
  | .adaptive sel => sel.finalize n

/-- What one hasher does from its construction to its single `finalize`: the commands it gives the block, in order, and
how it ends. -/
structure Session where
  commands : List Instr
  ending   : HasherFinal
  deriving DecidableEq, Repr

/-- The one call sequence of a hasher: construct, update*, a single finalize (R110). -/
def hasherSession (c : HasherConfig) (calls : List (List Byte)) (n : Nat) : Session :=
  let made := Hasher.construct c
  let fed := made.1.updates calls
  let last := fed.1.finalize n
  { commands := made.2 ++ fed.2 ++ last.issued, ending := last }

/-- The premise `accel_equiv(m, delim, n)` of R109, for a digest of at least n bytes (log entry 9): its first n bytes
are the block's n output bytes. A premise of claims about the accelerated path, assumed nowhere. -/
def AccelEquiv (rate : Byte) (m : List Byte) (delim : Byte) (n : Nat) : Prop :=
  ∃ d, Config.accelDigest m delim = some d ∧ blockOutput rate delim m n = some (d.take n) ∧ n ≤ d.length

end Sys2Proof.Machine
end

