-- ==== Sys2Proof/WellFormed.lean ====
section
/-! DEFINITION. Which terms are well formed. An operand of `Instr` is a byte by its type, so every `Instr` has an
encoding; what can be ill formed is a line of assembly, whose operands are numbers (30_encoding.md R61). The legal
ranges of R55 and R56 are a separate check: a command outside them is encoded, decoded and run, and raises its
error. -/

namespace Sys2Proof

/-- A number fits an 8-bit operand (R61). -/
def fitsByte (n : Nat) : Bool := decide (n < 256)

/-- A byte operand as written fits: a number of at most 8 bits, or an ASCII character (R61). -/
def AsmByte.wellFormed : AsmByte → Bool
  | .num n => fitsByte n
  | .chr c => decide (c.toNat < 128)

/-- Every operand of the line fits its field (R61: "An assembler refuses an operand that does not fit 8 bits").
The count of SQUEEZEN and HASH is a number of commands, not an operand of one, and is not bounded (R62, R101). -/
def AsmLine.wellFormed : AsmLine → Bool
  | .nop => true
  | .init rate delim => fitsByte rate && fitsByte delim
  | .absorb b => b.wellFormed
  | .finalize => true
  | .squeeze => true
  | .permute => true
  | .peek index => fitsByte index
  | .absorbs bs => bs.all AsmByte.wellFormed
  | .squeezen _ => true
  | .hash rate delim bs _ => fitsByte rate && fitsByte delim && bs.all AsmByte.wellFormed
  | .keccak _ bs => bs.all AsmByte.wellFormed

/-- The operands are in the ranges the spec calls legal: INIT rate 1 to 200 (R55), PEEK index 0 to 199 (R56). -/
def Instr.operandsLegal : Instr → Bool
  | .nop => true
  | .init rate _ => decide (1 ≤ rate.toNat ∧ rate.toNat ≤ 200)
  | .absorb _ => true
  | .finalize => true
  | .squeeze => true
  | .permute => true
  | .peek index => decide (index.toNat ≤ 199)

end Sys2Proof
end

