-- ==== Sys2Proof/Machine/Assembler.lean ====
section
/-! DEFINITION. The assembler (30_encoding.md R61, R62): a line's text to a line, a line to commands. Host side: the
block sees only the words (R63). -/

namespace Sys2Proof.Machine

/-! ### From a line to commands -/

/-- The value of a byte operand: the number, or the character's ASCII code (R61). -/
def asmByteValue : AsmByte → Byte
  | .num n => BitVec.ofNat 8 n
  | .chr c => BitVec.ofNat 8 c.toNat

/-- The commands a well-formed line stands for; pseudo-commands are expanded (R62). -/
def expand : AsmLine → List Instr
  | .nop => [.nop]
  | .init rate delim => [.init (BitVec.ofNat 8 rate) (BitVec.ofNat 8 delim)]
  | .absorb b => [.absorb (asmByteValue b)]
  | .finalize => [.finalize]
  | .squeeze => [.squeeze]
  | .permute => [.permute]
  | .peek index => [.peek (BitVec.ofNat 8 index)]
  | .absorbs bs => updateCommands (bs.map asmByteValue)
  | .squeezen n => List.replicate n .squeeze
  | .hash rate delim bs n => hashCommands (BitVec.ofNat 8 rate) (BitVec.ofNat 8 delim) (bs.map asmByteValue) n
  | .keccak v bs => variantCommands v (bs.map asmByteValue)

/-- Assemble a line: the commands, or `none` where the assembler refuses an operand that does not fit (R61). A value
that fits but is out of the command's legal range is assembled as written. -/
def assemble (l : AsmLine) : Option (List Instr) := if l.wellFormed then some (expand l) else none

/-! ### From text to a line (log entry 8) -/

/-- A word, an operand or a comma of a line's text. -/
inductive Token where
  | word (cs : List Char)
  | byte (b : AsmByte)
  | comma
  deriving DecidableEq, Repr

/-- The value of a decimal digit. -/
def decDigit (c : Char) : Option Nat := if '0' ≤ c ∧ c ≤ '9' then some (c.toNat - 48) else none

/-- The value of a hexadecimal digit. -/
def hexDigit (c : Char) : Option Nat :=
  if 'a' ≤ c ∧ c ≤ 'f' then some (c.toNat - 87)
  else if 'A' ≤ c ∧ c ≤ 'F' then some (c.toNat - 55)
  else decDigit c

/-- The number the digits write in a base, most significant first. -/
def readDigits (base : Nat) (digit : Char → Option Nat) (cs : List Char) : Option Nat :=
  cs.foldl (fun acc c => acc.bind fun n => (digit c).map fun d => base * n + d) (some 0)

/-- A decimal or `0x` hexadecimal number (R61). -/
def readNumber : List Char → Option Nat
  | '0' :: 'x' :: d :: ds => readDigits 16 hexDigit (d :: ds)
  | d :: ds => readDigits 10 decDigit (d :: ds)
  | [] => none

/-- The token that the characters gathered so far make, if there are any. -/
def closeToken : List Char → Option (List Token)
  | [] => some []
  | c :: cs =>
    if (decDigit c).isSome then (readNumber (c :: cs)).map fun n => [.byte (.num n)] else some [.word (c :: cs)]

/-- Cut a line into tokens; `;` starts a comment, `'c'` is a character literal (R61). -/
def tokens : List Char → List Char → Option (List Token)
  | acc, [] => closeToken acc
  | acc, '\'' :: c :: '\'' :: rest =>
    if acc = [] then (tokens [] rest).map fun ts => .byte (.chr c) :: ts else none
  | acc, c :: rest =>
    if c = ';' then closeToken acc
    else if c = ',' then (closeToken acc).bind fun t => (tokens [] rest).map fun ts => t ++ .comma :: ts
    else if c = ' ' ∨ c = '\t' then (closeToken acc).bind fun t => (tokens [] rest).map fun ts => t ++ ts
    else tokens (acc ++ [c]) rest

/-- Operands separated by commas. -/
def readOperands : List Token → Option (List AsmByte)
  | [] => some []
  | [.byte b] => some [b]
  | .byte b :: .comma :: t :: rest => (readOperands (t :: rest)).map fun bs => b :: bs
  | _ => none

/-- A line from its mnemonic and operands (R61, R62). Only the byte operands may be character literals. -/
def lineOf (m : List Char) (ops : List AsmByte) : Option AsmLine :=
  if m = ['N', 'O', 'P'] then match ops with | [] => some .nop | _ => none
  else if m = ['I', 'N', 'I', 'T'] then match ops with | [.num r, .num d] => some (.init r d) | _ => none
  else if m = ['A', 'B', 'S', 'O', 'R', 'B'] then match ops with | [b] => some (.absorb b) | _ => none
  else if m = ['F', 'I', 'N', 'A', 'L', 'I', 'Z', 'E'] then match ops with | [] => some .finalize | _ => none
  else if m = ['S', 'Q', 'U', 'E', 'E', 'Z', 'E'] then match ops with | [] => some .squeeze | _ => none
  else if m = ['P', 'E', 'R', 'M', 'U', 'T', 'E'] then match ops with | [] => some .permute | _ => none
  else if m = ['P', 'E', 'E', 'K'] then match ops with | [.num k] => some (.peek k) | _ => none
  else if m = ['A', 'B', 'S', 'O', 'R', 'B', 'S'] then some (.absorbs ops)
  else if m = ['S', 'Q', 'U', 'E', 'E', 'Z', 'E', 'N'] then
    match ops with | [.num n] => some (.squeezen n) | _ => none
  else if m = ['H', 'A', 'S', 'H'] then
    match ops with
    | .num r :: .num d :: more =>
      match more.reverse with
      | .num n :: bs => some (.hash r d bs.reverse n)
      | _ => none
    | _ => none
  else if m = ['K', 'E', 'C', 'C', 'A', 'K', '2', '2', '4'] then some (.keccak .keccak224 ops)
  else if m = ['K', 'E', 'C', 'C', 'A', 'K', '2', '5', '6'] then some (.keccak .keccak256 ops)
  else if m = ['K', 'E', 'C', 'C', 'A', 'K', '3', '8', '4'] then some (.keccak .keccak384 ops)
  else if m = ['K', 'E', 'C', 'C', 'A', 'K', '5', '1', '2'] then some (.keccak .keccak512 ops)
  else none

/-- The commands of one line of text, `none` where the assembler refuses it; a blank line or a comment has none. -/
def assembleText (text : List Char) : Option (List Instr) :=
  (tokens [] text).bind fun ts =>
    match ts with
    | [] => some []
    | .word m :: rest => (readOperands rest).bind fun ops => (lineOf m ops).bind assemble
    | _ => none

end Sys2Proof.Machine
end

