-- ==== Sys2Proof/Machine/Timing.lean ====
section
/-! DEFINITION. What a timing model needs (70_reset_and_hazards.md R138 to R142): the permutations of each command and
its cycles. The step itself counts no cycles (R140). -/

namespace Sys2Proof.Machine

/-- How many permutations a command runs in a state (R141); an errored or discarded command runs none. -/
def permutations (i : Instr) (s : State) : Nat :=
  if s.err then 0 else
  match i with
  | .nop => 0
  | .init _ _ => 0
  | .absorb _ => if s.fsm = .absorbing ∧ s.cursor + 1 = s.rate then 1 else 0
  | .finalize => if s.fsm = .absorbing then 1 else 0
  | .squeeze => if s.fsm = .squeezing ∧ s.cursor = s.rate then 1 else 0
  | .permute => 1
  | .peek _ => 0

/-- How many permutations an accepted word runs: none if the decoder rejects it (R141). -/
def wordPermutations (w : Word) (s : State) : Nat :=
  match decode w with
  | .instr i => permutations i s
  | .reserved => 0
  | .illegal => 0

/-- The cycles from acceptance to completion, not counting the host's time to take a response: CMD_LATENCY (R139), and
PERM_LATENCY more for each permutation the word runs, at most one (R138, R141; log entry 11). -/
def latency (w : Word) (s : State) : Nat := Config.cmdLatency + wordPermutations w s * Config.permLatency

end Sys2Proof.Machine
end

