-- ==== Sys2Proof/Machine/Clock.lean ====
section
/-! DEFINITION. The block edge by edge: the same commands behind the pins of 30_encoding.md R48, with the handshakes
(R49, R50), the latencies (70_reset_and_hazards.md R138, R139), reset in the middle of a command (R129) and the status
word while busy (R136). `step` is the model of R10, one command a step; a chip is claimed to refine it. -/

namespace Sys2Proof.Machine

/-- The inputs sampled at one rising edge of `clk` (R48). -/
structure Pins where
  rst      : Bool
  cmdValid : Bool
  cmdData  : Word
  rspReady : Bool
  deriving DecidableEq, Repr

/-- The block between two edges. -/
structure Chip where
  /-- The registers as the last completed command left them, and a response byte that waits (R42). -/
  block   : State
  /-- The command in progress, and the edges that still pass before the one that completes it (R24). -/
  work    : Option (Word × Nat)
  /-- A word offered and not yet accepted, which the host must hold (R143). -/
  offered : Option Word
  /-- The MODEL's own: edges so far, for the free values of the status output. -/
  edges   : Nat
  deriving DecidableEq, Repr

/-- The chip right after reset (R128): ready for a command. -/
def Chip.reset : Chip := { block := State.reset, work := none, offered := none, edges := 0 }

/-- BUSY (R24): from acceptance until completion, the response's delivery included. -/
def Chip.busy (c : Chip) : Bool := c.work.isSome || c.block.busy

/-- `cmd_ready` (R49, R128). -/
def Chip.cmdReady (rst : Bool) (c : Chip) : Bool := !c.busy && !rst

/-- `status` (R51): exact while BUSY = 0, any value in the fields while BUSY = 1 (R136). -/
def Chip.status (c : Chip) : Word :=
  if c.busy then busyStatus (Config.freeStatus c.edges) else statusOfRegisters c.block

/-- The pins no longer offer the word the host must hold, if there is one (R143). -/
def dropsWord (p : Pins) (held : Option Word) : Bool :=
  match held with
  | some w => !(p.cmdValid && p.cmdData == w)
  | none => false

/-- The host broke its duty to hold an offered word (R143). -/
def brokenHold (p : Pins) (c : Chip) : Bool := dropsWord p c.offered

/-- The word the host must go on holding after an edge that did not accept it. -/
def heldWord (p : Pins) : Option Word := if p.cmdValid then some p.cmdData else none

/-- Along these edges, none of which accepts a word, the host keeps its duty: it may offer a word at any of them, and
holds it from there on (R49, R143). -/
def keepsHold : Option Word → List Pins → Bool
  | _, [] => true
  | held, p :: ps => !dropsWord p held && keepsHold (heldWord p) ps

/-- The chip after an edge that leaves this block. -/
def Chip.after (p : Pins) (c : Chip) (block : State) (work : Option (Word × Nat)) : Chip :=
  { block := block, work := work, offered := heldWord p, edges := c.edges + 1 }

/-- The edge that completes a command: the whole effect comes into place (R42). Its response, if it has one, is offered
from this edge on and can be taken at the next at the earliest (R50), so the command runs with `rsp_ready` low. -/
def completeWork (w : Word) (p : Pins) (c : Chip) : Host.Outcome Chip Fault Refusal :=
  match acceptWord w { c.block with rspReady := false } with
  | .next t => .next (c.after p t none)
  | .fault r => .fault r
  | .refused r => .refused r

/-- One rising edge. -/
def edge (p : Pins) (c : Chip) : Host.Outcome Chip Fault Refusal :=
  if brokenHold p c then .refused .offeredWordWithdrawn
  else if p.rst then .next (c.after p c.block.resetEdge none)
  else match c.work with
    | some (w, 0) => completeWork w p c
    | some (w, n + 1) => .next (c.after p c.block (some (w, n)))
    | none =>
      if c.block.busy then .next (c.after p (c.block.setRspReady p.rspReady) none)
      else if p.cmdValid then
        .next { block := c.block, work := some (p.cmdData, latency p.cmdData c.block - 1), offered := none,
                edges := c.edges + 1 }
      else .next (c.after p c.block none)

/-- The edges with these inputs, one after the other. -/
def runEdges : List Pins → Chip → Host.Outcome Chip Fault Refusal
  | [], c => .next c
  | p :: ps, c =>
    match edge p c with
    | .next d => runEdges ps d
    | .fault r => .fault r
    | .refused r => .refused r

end Sys2Proof.Machine
end

