-- ==== Sys2Proof/Machine/Reference.lean ====
section
/-! DEFINITION. The sponge as a function of its input bytes, block by block, in the words of 41_sponge.md R84 to R89
and written without the commands: what the block is claimed to compute. -/

namespace Sys2Proof.Machine

/-- The lane file whose state bytes are `f` (20_memory.md R36): lane i is bytes 8i+7 down to 8i. -/
def lanesOfBytes (f : Fin 200 → Byte) : Lanes :=
  Vector.ofFn fun i : Fin 25 =>
    (f ⟨8 * i.val + 7, by omega⟩ ++ f ⟨8 * i.val + 6, by omega⟩ ++ f ⟨8 * i.val + 5, by omega⟩ ++
      f ⟨8 * i.val + 4, by omega⟩ ++ f ⟨8 * i.val + 3, by omega⟩ ++ f ⟨8 * i.val + 2, by omega⟩ ++
      f ⟨8 * i.val + 1, by omega⟩ ++ f ⟨8 * i.val, by omega⟩ : BitVec 64)

/-- State byte k, and 0 for the numbers that are no state byte. -/
def stateByteD (A : Lanes) (k : Nat) : Byte := if h : k < 200 then stateByte A ⟨k, h⟩ else 0

/-- A block of bytes exclusive-ored into the state from byte 0 on (R84). -/
def xorBlock (A : Lanes) (block : List Byte) : Lanes :=
  lanesOfBytes fun k => stateByte A k ^^^ block.getD k.val 0

/-- The lanes after absorbing `bytes` from the zero state: every full block is exclusive-ored in and permuted, the
rest exclusive-ored in (R84, R85). -/
def absorbed (rate : Nat) (bytes : List Byte) : Lanes :=
  xorBlock
    ((List.range (bytes.length / rate)).foldl
      (fun A j => keccakF (xorBlock A ((bytes.drop (j * rate)).take rate))) zeroLanes)
    (bytes.drop (bytes.length / rate * rate))

/-- The multi-rate padding of a state whose block holds `used` bytes (R86, R87). -/
def padded (rate used : Nat) (delim : Byte) (A : Lanes) : Lanes :=
  lanesOfBytes fun k =>
    stateByte A k ^^^ (if k.val = used then delim else 0) ^^^ (if k.val = rate - 1 then 0x80 else 0)

/-- Output byte j of a squeezing state: byte `j mod rate` after `j div rate` more permutations (R89). -/
def outputByte (rate : Nat) (A : Lanes) (j : Nat) : Byte := stateByteD (keccakF^[j / rate] A) (j % rate)

/-- The first n output bytes of the sponge (R84 to R89). -/
def spongeOutput (rate : Nat) (delim : Byte) (bytes : List Byte) (n : Nat) : List Byte :=
  (List.range n).map
    (outputByte rate (keccakF (padded rate (bytes.length % rate) delim (absorbed rate bytes))))

end Sys2Proof.Machine
end

