-- ==== Sys2Proof/Safety.lean ====
section
/-! DEFINITION. What counts as a good state and a safe step, in the terms the claims use. -/

namespace Sys2Proof.Machine

/-- The FSM invariant of 10_state.md R21. -/
def FsmInv (s : State) : Prop :=
  match s.fsm with
  | .idle => s.rate = 0 ∧ s.delim = 0 ∧ s.cursor = 0
  | .absorbing => 1 ≤ s.rate.toNat ∧ s.rate.toNat ≤ 200 ∧ s.cursor.toNat < s.rate.toNat
  | .squeezing => 1 ≤ s.rate.toNat ∧ s.rate.toNat ≤ 200 ∧ s.cursor.toNat ≤ s.rate.toNat

/-- `err_code` is NONE exactly when `err` = 0 (10_state.md R23). -/
def ErrInv (s : State) : Prop := s.errCode = .none ↔ s.err = false

/-- Between two steps the block is busy exactly while a response byte waits, and a byte waits only for a host that
does not take it (10_state.md R24, R28, 30_encoding.md R50). -/
def PortInv (s : State) : Prop := s.busy = s.rspPending.isSome ∧ (s.busy = true → s.rspReady = false)

/-- The invariant of every state a run reaches. -/
structure BlockInv (s : State) : Prop where
  fsm  : FsmInv s
  err  : ErrInv s
  port : PortInv s

/-- The outcome is a next state. -/
def Completes (o : Outcome) : Prop := ∃ t, o = .next t

end Sys2Proof.Machine
end

