-- ==== Sys2Proof/Certificates/Slice0/Obligations.lean ====
section
/-! DEFINITION. The statements for the provers. Each formalises the rules its docstring names. A statement about what a
command leaves gives the whole next state as an update of the old one, so what is not written there is unchanged. Free
values (`round`, `free`; log entry 1) are quantified: no statement rests on one. -/

namespace Sys2Proof.Machine

/-! ### The terms of the statements -/

/-- The state once the error bits record a code (60_exceptions.md R113). -/
def errored (code : ErrCode) (s : State) : State := { s with err := true, errCode := code }

/-- The state once a response byte is given to the port (30_encoding.md R50): delivered if the host takes it, else
waiting, a state between two steps that is the model's DESIGN CHOICE (log entry 7). -/
def responded (b : Byte) (s : State) : State :=
  if s.rspReady then { s with responses := s.responses ++ [b], rspPending := none, busy := false }
  else { s with rspPending := some b, busy := true }

/-- The port is idle and the host takes responses. -/
def PortIdle (s : State) : Prop := s.busy = false ∧ s.rspPending = none ∧ s.rspReady = true

/-- An unused or reserved field of a word of OP 0x0 to 0x6 is not zero (R57, R114). -/
def unusedNonzero (w : Word) : Bool :=
  match (opField w).toNat with
  | 0 | 3 | 4 | 5 => w.extractLsb' 0 28 != 0
  | 1 => w.extractLsb' 16 12 != 0
  | 2 | 6 => w.extractLsb' 8 20 != 0
  | _ => false

/-- The error a word raises on an unlocked block, the first in the priority of R116 (R112, R114). -/
def firstError (w : Word) (s : State) : ErrCode :=
  if 7 ≤ (opField w).toNat then .illegalOpcode
  else if unusedNonzero w then .reservedField
  else match (opField w).toNat with
    | 1 => if w.extractLsb' 0 8 = 0#8 ∨ 200 < (w.extractLsb' 0 8).toNat then .badRate else .none
    | 2 | 3 => if s.fsm = .absorbing then .none else .badState
    | 4 => if s.fsm = .squeezing then .none else .badState
    | 6 => if 199 < (w.extractLsb' 0 8).toNat then .badIndex else .none
    | _ => .none

/-- The transition table of R81; `none` is BAD_STATE. -/
def fsmTable (i : Instr) (f : Fsm) : Option Fsm :=
  match i, f with
  | .nop, f => some f
  | .init _ _, _ => some .absorbing
  | .absorb _, .absorbing => some .absorbing
  | .absorb _, .idle => none
  | .absorb _, .squeezing => none
  | .finalize, .absorbing => some .squeezing
  | .finalize, .idle => none
  | .finalize, .squeezing => none
  | .squeeze, .squeezing => some .squeezing
  | .squeeze, .idle => none
  | .squeeze, .absorbing => none
  | .permute, f => some f
  | .peek _, f => some f

/-- The lanes a command gives the permutation: after its byte writes, before any round (R84, R86, R141). -/
def lanesBeforeRounds (i : Instr) (s : State) : Lanes :=
  if s.err then s.lanes else
  match i with
  | .init rate _ => if 1 ≤ rate.toNat ∧ rate.toNat ≤ 200 then zeroLanes else s.lanes
  | .absorb data =>
    if s.fsm = .absorbing then
      lanesOfBytes fun k => if k.val = s.cursor.toNat then stateByte s.lanes k ^^^ data else stateByte s.lanes k
    else s.lanes
  | .finalize => if s.fsm = .absorbing then padded s.rate.toNat s.cursor.toNat s.delim s.lanes else s.lanes
  | .nop => s.lanes
  | .squeeze => s.lanes
  | .permute => s.lanes
  | .peek _ => s.lanes

/-- A computation as the source's interface gives it: INIT, ABSORB bytes and, perhaps, FINALIZE with SQUEEZEs (R111). -/
structure Computation where
  rate   : Byte
  delim  : Byte
  bytes  : List Byte
  output : Option Nat

/-- Its commands (45_host_interface.md R99 to R101). -/
def Computation.commands (c : Computation) : List Instr :=
  .init c.rate c.delim :: (updateCommands c.bytes ++
    match c.output with
    | some n => finalizeCommands n
    | none => [])

/-- A host that keeps `rsp_ready` low and raises it only after each command (70_reset_and_hazards.md R135). -/
def slowHost (is : List Instr) : List HostEvent :=
  is.flatMap fun i => [.command (encode i), .rspReady true, .rspReady false]

/-- The lane index of the t-th position of the walk (x, y) -> (y, 2x + 3y) from (1, 0) (40_permutation.md R68). -/
def rhoWalk : Nat → Fin 5 × Fin 5
  | 0 => (1, 0)
  | t + 1 => ((rhoWalk t).2, 2 * (rhoWalk t).1 + 3 * (rhoWalk t).2)

/-- R70's gather table. -/
def piSource : Vector (Fin 25) 25 :=
  #v[0, 6, 12, 18, 24, 3, 9, 10, 16, 22, 1, 7, 13, 19, 20, 4, 5, 11, 17, 23, 2, 8, 14, 15, 21]

/-- R70's scatter table. -/
def piDestination : Vector (Fin 25) 25 :=
  #v[0, 10, 20, 5, 15, 16, 1, 11, 21, 6, 7, 17, 2, 12, 22, 23, 8, 18, 3, 13, 14, 24, 9, 19, 4]

end Sys2Proof.Machine

open Sys2Proof Sys2Proof.Machine

/-! ### The commands -/

/-- R59, R82: NOP completes in every state and changes nothing; 0x00000000 is its only word, and any other word of OP
0x0 raises RESERVED_FIELD. -/
def Obligations.NopChangesNothing : Prop :=
  (∀ s, exec .nop s = .next s) ∧
  (∀ w, decode w = .instr .nop ↔ w = 0) ∧
  ∀ w s, opField w = 0 → w ≠ 0 → s.err = false → acceptWord w s = .next (errored .reservedField s)

/-- R83: INIT, its encoding, its legal and its illegal rates, and the lock. -/
def Obligations.InitStartsFromZeroState : Prop :=
  (∀ w : Word, w &&& 0xFFFF0000 = 0x10000000 →
    decode w = .instr (.init (w.extractLsb' 0 8) (w.extractLsb' 8 8))) ∧
  ∀ (rate delim : Byte) (s : State),
    (s.err = true → exec (.init rate delim) s = .next s) ∧
    (s.err = false → rate = 0 ∨ 200 < rate.toNat →
      exec (.init rate delim) s = .next (errored .badRate s)) ∧
    (s.err = false → 1 ≤ rate.toNat → rate.toNat ≤ 200 →
      exec (.init rate delim) s =
        .next { s with lanes := zeroLanes, rate := rate, delim := delim, cursor := 0, fsm := .absorbing })

/-- R84: ABSORB, its encoding, its errors and the lock; the byte at the cursor changes and no other, and the byte that
fills the block is followed by exactly one permutation. -/
def Obligations.AbsorbXorsOneByte : Prop :=
  (∀ w : Word, w &&& 0xFFFFFF00 = 0x20000000 → decode w = .instr (.absorb (w.extractLsb' 0 8))) ∧
  (∀ (w : Word) s, opField w = 2 → w.extractLsb' 8 20 ≠ 0#20 → s.err = false →
    acceptWord w s = .next (errored .reservedField s)) ∧
  ∀ (data : Byte) (s : State),
    (s.err = true → exec (.absorb data) s = .next s) ∧
    (s.err = false → s.fsm ≠ .absorbing → exec (.absorb data) s = .next (errored .badState s)) ∧
    (s.err = false → s.fsm = .absorbing → FsmInv s →
      (s.cursor + 1 ≠ s.rate →
        exec (.absorb data) s = .next { s with
          lanes := lanesOfBytes fun k =>
            if k.val = s.cursor.toNat then stateByte s.lanes k ^^^ data else stateByte s.lanes k,
          cursor := s.cursor + 1 }) ∧
      (s.cursor + 1 = s.rate → ∃ r f,
        exec (.absorb data) s = .next { s with
          lanes := keccakF (lanesOfBytes fun k =>
            if k.val = s.cursor.toNat then stateByte s.lanes k ^^^ data else stateByte s.lanes k),
          cursor := 0, round := r, free := f }))

/-- R86: FINALIZE, its encoding, its errors and the lock; the delimiter at the cursor and 0x80 at byte rate-1 (both on
one byte where they coincide), one permutation, cursor 0, SQUEEZING. -/
def Obligations.FinalizePadsAndPermutes : Prop :=
  (∀ w, decode w = .instr .finalize ↔ w = 0x30000000) ∧
  (∀ (w : Word) s, opField w = 3 → w.extractLsb' 0 28 ≠ 0#28 → s.err = false →
    acceptWord w s = .next (errored .reservedField s)) ∧
  ∀ s : State,
    (s.err = true → exec .finalize s = .next s) ∧
    (s.err = false → s.fsm ≠ .absorbing → exec .finalize s = .next (errored .badState s)) ∧
    (s.err = false → s.fsm = .absorbing → FsmInv s → ∃ r f,
      exec .finalize s = .next { s with
        lanes := keccakF (padded s.rate.toNat s.cursor.toNat s.delim s.lanes),
        cursor := 0, fsm := .squeezing, round := r, free := f })

/-- Derived from R88, R50 and R118: SQUEEZE, its encoding, its errors and the lock; one byte, a used-up block permuted
first, the cursor advanced. With `rsp_ready` 0 the next state has `busy` 1 and the byte waiting, the cursor already
advanced: that state between two steps is the model's DESIGN CHOICE of log entry 7, no rule's (R24 and R28 put no such
state in the model). A word of OP 0x4 with a nonzero unused field raises RESERVED_FIELD (its response byte is
ReservedSqueezeAndPeekRespond's). -/
def Obligations.SqueezeEmitsOneByte : Prop :=
  (∀ w, decode w = .instr .squeeze ↔ w = 0x40000000) ∧
  (∀ (w : Word) s, opField w = 4 → w.extractLsb' 0 28 ≠ 0#28 → s.err = false →
    ∃ t, acceptWord w s = .next t ∧ t.err = true ∧ t.errCode = .reservedField) ∧
  ∀ s : State,
    (s.err = true → exec .squeeze s = .next (responded 0 s)) ∧
    (s.err = false → s.fsm ≠ .squeezing → exec .squeeze s = .next (responded 0 (errored .badState s))) ∧
    (s.err = false → s.fsm = .squeezing → FsmInv s →
      (s.cursor ≠ s.rate →
        exec .squeeze s = .next { responded (stateByteD s.lanes s.cursor.toNat) s with cursor := s.cursor + 1 }) ∧
      (s.cursor = s.rate → ∃ r f,
        exec .squeeze s = .next
          { responded (stateByteD (keccakF s.lanes) 0) s with
            lanes := keccakF s.lanes, cursor := 1, round := r, free := f }))

/-- R78: PERMUTE, its encoding, its error and the lock; in every FSM state the lanes are permuted and nothing else
changes but the hidden counter. -/
def Obligations.PermuteChangesLanesOnly : Prop :=
  (∀ w, decode w = .instr .permute ↔ w = 0x50000000) ∧
  (∀ (w : Word) s, opField w = 5 → w.extractLsb' 0 28 ≠ 0#28 → s.err = false →
    acceptWord w s = .next (errored .reservedField s)) ∧
  ∀ s : State,
    (s.err = true → exec .permute s = .next s) ∧
    (s.err = false → ∃ r f,
      exec .permute s = .next { s with lanes := keccakF s.lanes, round := r, free := f })

/-- Derived from R90, R50 and R118: PEEK, its encoding, its errors and the lock; it emits the byte and changes no
register. With `rsp_ready` 0 the next state has `busy` 1 and the byte waiting: that state between two steps is the
model's DESIGN CHOICE of log entry 7, no rule's (R24, R28). A word of OP 0x6 with a nonzero unused field raises
RESERVED_FIELD (its response byte is ReservedSqueezeAndPeekRespond's). -/
def Obligations.PeekReadsAnyByte : Prop :=
  (∀ w : Word, w &&& 0xFFFFFF00 = 0x60000000 → decode w = .instr (.peek (w.extractLsb' 0 8))) ∧
  (∀ (w : Word) s, opField w = 6 → w.extractLsb' 8 20 ≠ 0#20 → s.err = false →
    ∃ t, acceptWord w s = .next t ∧ t.err = true ∧ t.errCode = .reservedField) ∧
  ∀ (index : Byte) (s : State),
    (s.err = true → exec (.peek index) s = .next (responded 0 s)) ∧
    (s.err = false → 199 < index.toNat → exec (.peek index) s = .next (responded 0 (errored .badIndex s))) ∧
    (s.err = false → ∀ k : Fin 200, index.toNat = k.val →
      exec (.peek index) s = .next (responded (stateByte s.lanes k) s))

/-- Derived from R86 and R87: with delimiter 0x80 and the cursor on the block's last byte the padding cancels, and
FINALIZE is a bare permutation. -/
def Obligations.FinalizeCancellingPadding : Prop :=
  ∀ s : State, s.err = false → s.fsm = .absorbing → FsmInv s → s.cursor + 1 = s.rate → s.delim = 0x80 → ∃ r f,
    exec .finalize s = .next { s with
      lanes := keccakF s.lanes, cursor := 0, fsm := .squeezing, round := r, free := f }

/-- Derived from R31: what each command leaves alone whenever it answers a next state, locked or not. -/
def Obligations.CommandsKeepTheirFrame : Prop :=
  ∀ (i : Instr) (s t : State), exec i s = .next t →
    (t.host = s.host ∧ t.rspReady = s.rspReady ∧ t.statusReads = s.statusReads) ∧
    ((∀ r d, i ≠ .init r d) → t.rate = s.rate ∧ t.delim = s.delim) ∧
    (i = .nop ∨ i = .permute ∨ (∃ k, i = .peek k) → t.cursor = s.cursor ∧ t.fsm = s.fsm) ∧
    (i = .nop ∨ (∃ k, i = .peek k) → t.lanes = s.lanes ∧ t.round = s.round) ∧
    (responds i = false → t.responses = s.responses ∧ t.rspPending = s.rspPending ∧ t.busy = s.busy)

/-! ### Encoding -/

/-- Derived from R57, R58, R60 and R114: the decoder is total; a word is Illegal when OP is 0x7 or more, the command of
the one row whose masked bits it has, and Reserved otherwise; the two rejections raise their errors (a byte such a word
may give: log entries 3 and 7). -/
def Obligations.DecoderFollowsMatchAndMask : Prop :=
  (∀ w, decode w = .illegal ↔ 7 ≤ (w >>> 28).toNat) ∧
  (∀ w, decode w = .reserved ↔ (w >>> 28).toNat < 7 ∧ opcodeRows.all (fun r => !r.covers w) = true) ∧
  (∀ w i, decode w = .instr i → (opcodeRows.filter (·.covers w)).map (·.mnemonic) = [i.mnemonic]) ∧
  (∀ w i, decode w = .instr i → ∀ rate delim,
    (i = .init rate delim → rate = w.extractLsb' 0 8 ∧ delim = w.extractLsb' 8 8) ∧
    (i = .absorb rate ∨ i = .peek rate → rate = w.extractLsb' 0 8)) ∧
  ∀ w s, s.err = false →
    (decode w = .illegal → ∃ t, acceptWord w s = .next t ∧ t.err = true ∧ t.errCode = .illegalOpcode) ∧
    (decode w = .reserved → ∃ t, acceptWord w s = .next t ∧ t.err = true ∧ t.errCode = .reservedField)

/-- Derived from R52, R53 and R60: decoding the word of a command gives the command back, at every operand value. -/
def Obligations.DecodeOfEncodeIsIdentity : Prop := ∀ i, decode (encode i) = .instr i

/-- Derived from R52, R57 and R60: every accepted word is the word of its command, so no bit of it is ignored. -/
def Obligations.AcceptedWordIsItsEncoding : Prop := ∀ w i, decode w = .instr i → encode i = w

/-- Derived from 95_test_vectors.md section 5: every row of its table of decode vectors. -/
def Obligations.SampleWordsDecode : Prop :=
  decode 0x00000000 = .instr .nop ∧ decode 0x00010000 = .reserved ∧ decode 0x00000001 = .reserved ∧
  decode 0x10000188 = .instr (.init 136 0x01) ∧ decode 0x10000100 = .instr (.init 0 0x01) ∧
  decode 0x100001C9 = .instr (.init 201 0x01) ∧ decode 0x100001C8 = .instr (.init 200 0x01) ∧
  decode 0x1FFF0188 = .reserved ∧ decode 0x20000061 = .instr (.absorb 0x61) ∧ decode 0x20000141 = .reserved ∧
  decode 0x30000000 = .instr .finalize ∧ decode 0x30008000 = .reserved ∧ decode 0x40000000 = .instr .squeeze ∧
  decode 0x50000000 = .instr .permute ∧ decode 0x50000001 = .reserved ∧
  decode 0x600000C7 = .instr (.peek 199) ∧ decode 0x600000C8 = .instr (.peek 200) ∧
  decode 0x70000000 = .illegal ∧ decode 0x7FFFFFFF = .illegal ∧ decode 0xF0000000 = .illegal

/-! ### Errors and the lock -/

/-- R58: OP 0x7 to 0xF raises ILLEGAL_OPCODE whatever the other bits, and does nothing else. -/
def Obligations.IllegalOpcodeRaises : Prop :=
  ∀ (w : Word) (s : State), 7 ≤ (opField w).toNat → s.err = false →
    acceptWord w s = .next (errored .illegalOpcode s)

/-- Derived from R57 and R118: a nonzero reserved or unused field raises RESERVED_FIELD and has no other effect, the
response byte of a SQUEEZE or PEEK word apart. That such a word may give a byte is log entry 3, and that with `rsp_ready`
0 the byte waits in a state between two steps is the model's DESIGN CHOICE of log entry 7. -/
def Obligations.ReservedFieldRaises : Prop :=
  ∀ (w : Word) (s : State), (opField w).toNat < 7 → s.err = false →
    w.extractLsb' 16 12 ≠ 0#12 ∨ (opField w ≠ 1 ∧ w.extractLsb' 8 8 ≠ 0#8) ∨
      ((opField w = 0 ∨ opField w = 3 ∨ opField w = 4 ∨ opField w = 5) ∧ w.extractLsb' 0 8 ≠ 0#8) →
    ∃ t, acceptWord w s = .next t ∧
      (t = errored .reservedField s ∨
        (opField w = 4 ∨ opField w = 6) ∧ t = responded 0 (errored .reservedField s))

/-- Derived from R50, R88, R90, R114, R115 and R118, and the model's reading of them (log entry 3): a word of OP 0x4 or
0x6 that the decoder rejects still gives the response byte 0x00, whether it raises RESERVED_FIELD or is discarded by the
lock, and every other rejected word, Illegal ones included, gives none. With `rsp_ready` 0 the byte waits in a state
between two steps, the model's DESIGN CHOICE of log entry 7. -/
def Obligations.ReservedSqueezeAndPeekRespond : Prop :=
  (∀ (w : Word) (s : State), decode w = .reserved → s.err = false →
    (opField w = 4 ∨ opField w = 6 → acceptWord w s = .next (responded 0 (errored .reservedField s))) ∧
    (opField w ≠ 4 → opField w ≠ 6 → acceptWord w s = .next (errored .reservedField s))) ∧
  (∀ (w : Word) (s : State), decode w = .reserved → s.err = true →
    (opField w = 4 ∨ opField w = 6 → acceptWord w s = .next (responded 0 s)) ∧
    (opField w ≠ 4 → opField w ≠ 6 → acceptWord w s = .next s)) ∧
  ∀ (w : Word) (s : State), decode w = .illegal → s.err = true → acceptWord w s = .next s

/-- Derived from R114, R116 and R142: which error a word raises on an unlocked block, exactly one, the first in the order
of priority; every accepted word answers a next state. That this is so of a SQUEEZE or PEEK with `rsp_ready` 0 too, whose
byte then waits between two steps (by R135 it completes only when the byte is taken), is the model's DESIGN CHOICE of log
entry 7. -/
def Obligations.FirstErrorIsRecorded : Prop :=
  ∀ (w : Word) (s : State), BlockInv s → s.err = false →
    ∃ t, acceptWord w s = .next t ∧ t.errCode = firstError w s ∧ (t.err = true ↔ firstError w s ≠ .none)

/-- Derived from R113, R117 and R118: a command that raises an error records it and has no other effect but the response
byte 0x00 of a command that has a response; a rejected word likewise (whether a rejected word gives one: log entry 3).
With `rsp_ready` 0 the next state has `busy` 1 and the byte waiting: that state between two steps is the model's DESIGN
CHOICE of log entry 7, no rule's (R24 and R28 put no such state in the model). -/
def Obligations.ErroredCommandHasNoOtherEffect : Prop :=
  (∀ (i : Instr) (s t : State), s.err = false → exec i s = .next t → t.err = true →
    ∃ code, code ≠ .none ∧ t = if responds i then responded 0 (errored code s) else errored code s) ∧
  ∀ (w : Word) (s t : State), s.err = false → acceptWord w s = .next t → t.err = true →
    ∃ code, code ≠ .none ∧
      (t = errored code s ∨ (opField w = 4 ∨ opField w = 6) ∧ t = responded 0 (errored code s))

/-- Derived from R115 and R118: while locked every command is discarded, SQUEEZE and PEEK still emit 0x00, a word the
decoder rejects is discarded too (which of them give a byte is ReservedSqueezeAndPeekRespond's), and nothing but a reset
unlocks the block. With `rsp_ready` 0 the next state of SQUEEZE and PEEK has `busy` 1 and the byte waiting: that state
between two steps is the model's DESIGN CHOICE of log entry 7, no rule's (R24, R28). -/
def Obligations.LockedBlockDiscards : Prop :=
  (∀ (i : Instr) (s : State), s.err = true → exec i s = .next (if responds i then responded 0 s else s)) ∧
  (∀ (w : Word) (s : State), s.err = true →
    acceptWord w s = .next s ∨ (opField w = 4 ∨ opField w = 6) ∧ acceptWord w s = .next (responded 0 s)) ∧
  ∀ s t : State, s.err = true → step s = .next t → (∀ rest, s.host ≠ .reset :: rest) →
    t.err = true ∧ t.errCode = s.errCode ∧ t.lanes = s.lanes ∧ t.rate = s.rate ∧ t.delim = s.delim ∧
      t.cursor = s.cursor ∧ t.fsm = s.fsm

/-- R120: along any run without a reset, `err_code` keeps the first error. -/
def Obligations.FirstErrorIsKept : Prop :=
  ∀ (n : Nat) (s t : State), s.err = true → (∀ e ∈ s.host, e ≠ .reset) →
    Sys2Proof.core.run n s = .next t → t.err = true ∧ t.errCode = s.errCode

/-! ### The FSM and the invariants -/

/-- R81: the transition table; where it says BAD_STATE that error is recorded, and an errored command leaves `fsm`. -/
def Obligations.FsmFollowsTable : Prop :=
  ∀ (i : Instr) (s t : State), s.err = false → exec i s = .next t →
    (t.err = true → t.fsm = s.fsm) ∧
    (fsmTable i s.fsm = none ↔ t.err = true ∧ t.errCode = .badState) ∧
    (t.err = false → fsmTable i s.fsm = some t.fsm)

/-- Derived from R21, R23 and R30 (the port part rests on log entry 4): the invariants hold right after reset. -/
def Obligations.ResetMeetsInvariant : Prop := BlockInv State.reset

/-- Derived from R21, R23, R24, R28 and R50: every step, the reset edge included, keeps the invariants. The port's part
(PortInv: between two steps `busy` is 1 exactly while a byte waits for a host that does not take it) rests on the model's
DESIGN CHOICE of log entry 7, under which there are such states at all. -/
def Obligations.StepKeepsInvariant : Prop := ∀ s t : State, BlockInv s → step s = .next t → BlockInv t

/-- Derived from R42, R114 and R142: from a state that meets the invariants every step completes, for every event of the
host but a word withdrawn while the block is busy. The invariants admit states in which a byte waits; that a step in which
nothing can happen (X17), and a SQUEEZE or PEEK with `rsp_ready` 0, answer a next state is the model's DESIGN CHOICE of
log entry 7. -/
def Obligations.StepCompletes : Prop :=
  ∀ s : State, BlockInv s → (s.busy = true → ∀ w rest, s.host ≠ .commandWithdrawn w :: rest) → Completes (step s)

/-- Derived from R17: `rate` is written only by INIT, with 1 to 200, and by reset, with 0. -/
def Obligations.RateIsWrittenOnlyByInitAndReset : Prop :=
  ∀ s t : State, step s = .next t →
    t.rate = s.rate ∨ (t.rate = 0 ∧ ∃ rest, s.host = .reset :: rest) ∨
    ∃ w rest delim, (s.host = .command w :: rest ∨ s.host = .commandWithdrawn w :: rest) ∧
      decode w = .instr (.init t.rate delim) ∧ 1 ≤ t.rate.toNat ∧ t.rate.toNat ≤ 200

/-- Derived from R18: `delim` is read only by FINALIZE: another delimiter changes nothing else of what any other command does. -/
def Obligations.DelimIsReadOnlyByFinalize : Prop :=
  ∀ (i : Instr) (s : State) (d : Byte), i ≠ .finalize → (∀ rate delim, i ≠ .init rate delim) →
    exec i { s with delim := d } = andThen (exec i s) fun t => .next { t with delim := d }

/-- Derived from R34 and R35: the capacity part changes only through the permutation and INIT. -/
def Obligations.CapacityIsUntouched : Prop :=
  ∀ (i : Instr) (s t : State) (k : Fin 200), FsmInv s → exec i s = .next t → (∀ r d, i ≠ .init r d) →
    permutations i s = 0 → s.rate.toNat ≤ k.val → stateByte t.lanes k = stateByte s.lanes k

/-- R141: the number of permutations of each command: the lanes it leaves are that many permutations of the lanes after
its byte writes, and it is at most one. -/
def Obligations.PermutationsPerCommand : Prop :=
  ∀ (i : Instr) (s t : State), FsmInv s → exec i s = .next t →
    t.lanes = keccakF^[permutations i s] (lanesBeforeRounds i s) ∧ permutations i s ≤ 1

/-! ### The step, the ports, reset -/

/-- Derived from R10, R42, R49, R57, R58 and R60: a step accepts the word offered to a block that is not busy, whatever the
word, takes it from the host's list, and runs the command it decodes to; a word the decoder rejects is accepted too. The
last clause is the model's own, no rule's: a table word placed by withFetchWord (DESIGN CHOICE of log entry 5) is run so
by the next step. -/
def Obligations.StepRunsDecodedCommand : Prop :=
  (∀ (s : State) w rest, s.host = .command w :: rest ∨ s.host = .commandWithdrawn w :: rest → s.busy = false →
    step s = acceptWord w { s with host := rest }) ∧
  (∀ (s : State) w rest i, s.host = .command w :: rest ∨ s.host = .commandWithdrawn w :: rest → s.busy = false →
    decode w = .instr i → step s = exec i { s with host := rest }) ∧
  ∀ (s : State) (w : Nat) i, decodeTableWord 32 w = some i →
    step (s.withFetchWord 32 w) = exec i { s with busy := false, rspPending := none }

/-- Derived from R42, R49 and R143: `cmd_ready` is 1 exactly when `busy` = 0 and `rst` = 0; a word offered at an edge at
which it is 1 is accepted, and one offered otherwise is neither accepted, dropped nor lost: such an edge only moves the
command in progress one edge on, completes it, waits for the host to take a response, or resets. That the accepting edge
leaves the block's registers as they are, that the effect lands at the completing edge, and that a reset edge does not
end the hold of an offered word, are the model's reading (DEDUCED, log entry 11). -/
def Obligations.OfferedWordIsHeldWhileBusy : Prop :=
  (∀ rst s, cmdReady rst s = true ↔ s.busy = false ∧ rst = false) ∧
  (∀ rst (c : Chip), c.cmdReady rst = true ↔ c.work = none ∧ c.block.busy = false ∧ rst = false) ∧
  (∀ (p : Pins) (c : Chip), brokenHold p c = false → c.cmdReady p.rst = true → ∃ d, edge p c = .next d ∧
    d.block = c.block ∧ d.offered = none ∧
    (p.cmdValid = true → d.work = some (p.cmdData, latency p.cmdData c.block - 1)) ∧
    (p.cmdValid = false → d.work = none)) ∧
  (∀ (s : State) w rest, s.host = .command w :: rest → s.busy = true → step s = .next s) ∧
  ∀ (p : Pins) (c d : Chip), c.cmdReady p.rst = false → edge p c = .next d →
    (p.cmdValid = true → d.offered = some p.cmdData) ∧
    (p.rst = true → d.work = none) ∧
    (p.rst = false → c.work = none → d.work = none ∧ d.block = c.block.setRspReady p.rspReady) ∧
    (∀ w, p.rst = false → c.work = some (w, 0) →
      d.work = none ∧ acceptWord w { c.block with rspReady := false } = .next d.block) ∧
    ∀ w n, p.rst = false → c.work = some (w, n + 1) → d.work = some (w, n) ∧ d.block = c.block

/-- R127: with nothing from the host the block holds its state, and no event but a command and a reset changes a
register. -/
def Obligations.StateHoldsWithoutCommand : Prop :=
  (∀ s : State, s.host = [] → step s = .next s) ∧
  ∀ s t : State, step s = .next t → (∀ w rest, s.host ≠ .command w :: rest ∧ s.host ≠ .commandWithdrawn w :: rest) →
    (∀ rest, s.host ≠ .reset :: rest) →
    t.lanes = s.lanes ∧ t.rate = s.rate ∧ t.delim = s.delim ∧ t.cursor = s.cursor ∧ t.fsm = s.fsm ∧ t.err = s.err ∧
      t.errCode = s.errCode ∧ t.round = s.round

/-- Derived from R128: a reset edge gives every register its reset value (`round` any value); what the host holds stays
(DESIGN CHOICE, log entry 4); while `rst` = 1 no command is accepted and no response offered, and after it the block is
ready. -/
def Obligations.ResetEdgeGivesResetValues : Prop :=
  ∀ (s : State) rest, s.host = .reset :: rest →
    cmdReady true s = false ∧ rspValid true s = false ∧
    ∃ r f, step s = .next { State.reset with
        round := r, free := f, rspReady := s.rspReady, host := rest, responses := s.responses,
        statusReads := s.statusReads } ∧
      ∀ t, step s = .next t → cmdReady false t = true

/-- Derived from R129: a reset edge in the middle of a command abandons it: no effect of the command in progress is kept,
and a byte not yet taken is discarded. What the host holds stays (DESIGN CHOICE, log entry 4), and a word offered at the
edge is held on (`offered := heldWord p`), which follows from R49 with R143 and not from R129 (DEDUCED, log entry 11). A
reset edge at which a held word is dropped is not covered: the model refuses it (WithdrawnWordIsRefused). -/
def Obligations.ResetAbandonsCommandInProgress : Prop :=
  ∀ (c : Chip) (p : Pins), brokenHold p c = false → p.rst = true → ∃ r f,
    edge p c = .next
      { block := { State.reset with
          round := r, free := f, rspReady := c.block.rspReady, host := c.block.host,
          responses := c.block.responses, statusReads := c.block.statusReads },
        work := none, offered := heldWord p, edges := c.edges + 1 }

/-- Derived from R25 and R136: the fields of the status word: exact while BUSY = 0; while BUSY = 1, BUSY reads 1 and bit 7
reads 0 (DEDUCED, log entry 13); a read records the word and changes no register. -/
def Obligations.StatusWordShowsRegisters : Prop :=
  (∀ s : State, s.busy = false →
    (statusWord s).extractLsb' 0 2 = fsmBits s.fsm ∧ (statusWord s).getLsbD 2 = false ∧
    (statusWord s).getLsbD 3 = s.err ∧ (statusWord s).extractLsb' 4 3 = errBits s.errCode ∧
    (statusWord s).getLsbD 7 = false ∧ (statusWord s).extractLsb' 8 8 = s.cursor ∧
    (statusWord s).extractLsb' 16 8 = s.rate ∧ (statusWord s).extractLsb' 24 8 = s.delim) ∧
  (∀ s : State, s.busy = true → (statusWord s).getLsbD 2 = true ∧ (statusWord s).getLsbD 7 = false) ∧
  ∀ (s : State) rest, s.host = .readStatus :: rest → ∃ f,
    step s = .next { s with host := rest, statusReads := s.statusReads ++ [statusWord s], free := f }

/-- Derived from R50 and R135: a response the host does not take leaves the block busy with the byte waiting; once
`rsp_ready` is 1 the byte is delivered and the command completes. That the step of PEEK answers the state in which the
byte waits, with `busy` 1, is the model's DESIGN CHOICE of log entry 7 (by R24 and R28 a model shows no such state between
two steps). SQUEEZE's waiting form is SqueezeEmitsOneByte's. -/
def Obligations.ResponseWaitsForTheHost : Prop :=
  (∀ (s : State) (k : Byte) (j : Fin 200), s.err = false → s.rspReady = false → k.toNat = j.val →
    exec (.peek k) s = .next { s with rspPending := some (stateByte s.lanes j), busy := true }) ∧
  (∀ (s : State) b rest, s.host = .rspReady true :: rest → s.rspPending = some b →
    step s = .next { s with
      host := rest, rspReady := true, responses := s.responses ++ [b], rspPending := none, busy := false }) ∧
  ∀ (s : State) b rest, s.host = .rspReady false :: rest → s.rspPending = some b →
    step s = .next { s with host := rest, rspReady := false }

/-- Derived from R50: exactly one response byte for every SQUEEZE and PEEK, an errored or discarded one included, and
none for any other command. That a byte may wait in a state between two steps is the model's DESIGN CHOICE of log entry
7. -/
def Obligations.OneResponsePerSqueezeOrPeek : Prop :=
  ∀ (i : Instr) (s t : State), s.busy = false → s.rspPending = none → exec i s = .next t →
    (responds i = true → ∃ b, t.responses ++ t.rspPending.toList = s.responses ++ [b]) ∧
    (responds i = false → t.responses = s.responses ∧ t.rspPending = none)

/-- R143: a host that withdraws or changes an offered word before acceptance is refused, at the step and at the edge. -/
def Obligations.WithdrawnWordIsRefused : Prop :=
  (∀ (s : State) w rest, s.host = .commandWithdrawn w :: rest → s.busy = true →
    step s = .refused .offeredWordWithdrawn) ∧
  ∀ (p : Pins) (c : Chip) w, c.offered = some w → p.cmdValid = false ∨ p.cmdData ≠ w →
    edge p c = .refused .offeredWordWithdrawn

/-- Derived from R49, R50, R135, R138, R139, R140, R142 and R143: on the pins, a ready chip accepts a word, one it has been
holding too, and completes it after CMD_LATENCY edges, PERM_LATENCY more if it permutes, whatever `rsp_ready` does
meanwhile and whether or not the host offers and holds its next word (`ps`); that word is then the chip's offered word.
The block is what the command step says. Without a response it is ready at once, and stays so while nothing is offered; a
response waits as long as `rsp_ready` is 0 (`qs`) and is taken at the next edge at which it is 1 (`p`). That the latency
is exactly that sum and which edge takes a response are the model's reading (DEDUCED, log entry 11), and that the waiting
state is a step's (`u`) is its DESIGN CHOICE of log entry 7. -/
def Obligations.ClockedBlockRefinesStep : Prop :=
  ∀ (w : Word) (c : Chip) (level : Bool) (ps : List Pins),
    c.work = none → c.offered = none ∨ c.offered = some w → c.block.busy = false → BlockInv c.block →
    (∀ p ∈ ps, p.rst = false) → keepsHold none ps = true → ps.length = latency w c.block →
    (wordPermutations w c.block = 0 → latency w c.block = Config.cmdLatency) ∧
    (wordPermutations w c.block ≠ 0 → latency w c.block = Config.cmdLatency + Config.permLatency) ∧
    ∃ t u e, acceptWord w { c.block with rspReady := true } = .next t ∧
      acceptWord w { c.block with rspReady := false } = .next u ∧
      runEdges (⟨false, true, w, level⟩ :: ps) c = .next e ∧
      e.work = none ∧ e.block = u ∧ e.offered = ps.getLast?.bind heldWord ∧
      (u.busy = false → { u with rspReady := true } = t ∧ e.cmdReady false = true ∧
        ∀ qs : List Pins, e.offered = none → (∀ q ∈ qs, q.rst = false ∧ q.cmdValid = false) →
          ∃ d, runEdges qs e = .next d ∧ d.work = none ∧ d.block = u ∧ d.offered = none ∧ d.cmdReady false = true) ∧
      (u.busy = true → ∀ (qs : List Pins) (p : Pins), (∀ q ∈ qs, q.rst = false ∧ q.rspReady = false) →
        p.rst = false → p.rspReady = true → keepsHold e.offered (qs ++ [p]) = true →
        ∃ d, runEdges (qs ++ [p]) e = .next d ∧ d.work = none ∧ d.block = t ∧ d.offered = heldWord p ∧
          d.cmdReady false = true)

/-! ### The byte view -/

/-- Derived from R36: the byte view and the lanes are two views of the same bits, little-endian within a lane. -/
def Obligations.ByteViewAndLanesAgree : Prop :=
  (∀ f k, stateByte (lanesOfBytes f) k = f k) ∧ ∀ A, lanesOfBytes (stateByte A) = A

/-- R37: XorStateByte changes the one byte and no bit outside it. -/
def Obligations.XorStateByteIsLocal : Prop :=
  ∀ (A : Lanes) (k j : Fin 200) (v : Byte),
    stateByte (xorStateByte A k v) j = if j = k then stateByte A k ^^^ v else stateByte A j

/-! ### The permutation -/

/-- Derived from R8: ROTL64 moves bit i to bit (i + n) mod 64. -/
def Obligations.RotationMovesBits : Prop :=
  ∀ (v : Lane) (n i : Nat), n < 64 → i < 64 → (rotl64 v n).getLsbD ((i + n) % 64) = v.getLsbD i

/-- Derived from R68 and R72: the offsets are those of the generating walk with one zero, at lane 0, and the round
constants have bits only at positions 2^j - 1. -/
def Obligations.ConstantTablesAsGenerated : Prop :=
  (∀ t : Fin 24, rhoOffsets[laneIndex (rhoWalk t).1 (rhoWalk t).2] = (t.val + 1) * (t.val + 2) / 2 % 64) ∧
  (∀ i : Fin 25, rhoOffsets[i] = 0 ↔ i = 0) ∧
  ∀ (r : Fin 24) (b : Fin 64), (roundConstant r).getLsbD b.val = true → ∃ j : Fin 7, b.val + 1 = 2 ^ j.val

/-- R70: pi moves the lane at (x, y) to (y, 2x + 3y), by its two tables too, and lane 0 stays in place. -/
def Obligations.PiMovesLanesByTables : Prop :=
  ∀ (B : Lanes), (∀ x y : Fin 5, laneAt (piStep B) y (2 * x + 3 * y) = laneAt B x y) ∧
    (∀ j : Fin 25, (piStep B)[j] = B[piSource[j]]) ∧
    (∀ i : Fin 25, (piStep B)[piDestination[i]] = B[i]) ∧ (piStep B)[0] = B[0]

/-- Derived from R69, R70 and R74: the in-place chain of 24 lane moves equals rho followed by pi, for every state. -/
def Obligations.ChainEqualsRhoThenPi : Prop := ∀ A : Lanes, rhoPiChain A = piStep (rho A)

/-- Derived from R76: Keccak-f[1600] is a bijection. -/
def Obligations.KeccakFIsBijective : Prop := Function.Bijective keccakF

/-- R80: the two facts of the permutation that hold by evaluation. -/
def Obligations.KeccakFOfZeroByEvaluation : Prop :=
  keccakF zeroLanes ≠ zeroLanes ∧ keccakF (keccakF zeroLanes) ≠ keccakF zeroLanes

/-! ### Command sequences -/

/-- R45: a host that offers commands and takes responses sees the sequential composition of the commands. -/
def Obligations.OfferedCommandsComposeInOrder : Prop :=
  ∀ (is : List Instr) (s : State), s.host = offers is → PortIdle s →
    Sys2Proof.core.run is.length s = runCommands is { s with host := [] }

/-- Derived from R45, R50 and R135: a host that takes each response only after a while sees the same composition of the
commands. The state in which a byte waits between two steps is the model's DESIGN CHOICE of log entry 7. -/
def Obligations.SlowHostSeesTheSameComposition : Prop :=
  ∀ (is : List Instr) (s : State), s.host = slowHost is → s.busy = false → s.rspPending = none → s.rspReady = false →
    Sys2Proof.core.run (3 * is.length) s =
      andThen (runCommands is { s with host := [], rspReady := true }) fun t => .next { t with rspReady := false }

/-- R85: n ABSORBs after INIT run exactly n div rate permutations, one at the end of each full block, and leave the
cursor at n mod rate. -/
def Obligations.AbsorbSequenceFillsBlocks : Prop :=
  ∀ (rate delim : Byte) (bytes : List Byte) (s : State), s.err = false → 1 ≤ rate.toNat → rate.toNat ≤ 200 → ∃ r f,
    runCommands (.init rate delim :: updateCommands bytes) s = .next { s with
      lanes := absorbed rate.toNat bytes, rate := rate, delim := delim,
      cursor := BitVec.ofNat 8 (bytes.length % rate.toNat), fsm := .absorbing, round := r, free := f }

/-- R89: after FINALIZE, output byte j is byte j mod rate after j div rate more permutations, and n SQUEEZEs run
(n - 1) div rate of them. -/
def Obligations.SqueezeSequenceOutputsBlocks : Prop :=
  ∀ (n : Nat) (s : State), s.err = false → s.fsm = .squeezing → FsmInv s → s.cursor = 0 → PortIdle s → ∃ r f,
    runCommands (List.replicate n .squeeze) s = .next { s with
      lanes := keccakF^[(n - 1) / s.rate.toNat] s.lanes,
      cursor := if n = 0 then 0 else BitVec.ofNat 8 ((n - 1) % s.rate.toNat + 1),
      responses := s.responses ++ (List.range n).map (outputByte s.rate.toNat s.lanes), round := r, free := f }

/-- Derived from R88 and R89: output goes on where it stopped. From any cursor, output byte j is byte (cursor + j) mod
rate after (cursor + j) div rate more permutations. -/
def Obligations.SqueezeSequenceResumesAtCursor : Prop :=
  ∀ (n : Nat) (s : State), s.err = false → s.fsm = .squeezing → FsmInv s → PortIdle s → ∃ r f,
    runCommands (List.replicate n .squeeze) s = .next { s with
      lanes := keccakF^[(s.cursor.toNat + n - 1) / s.rate.toNat] s.lanes,
      cursor := if n = 0 then s.cursor else BitVec.ofNat 8 ((s.cursor.toNat + n - 1) % s.rate.toNat + 1),
      responses := s.responses ++
        (List.range n).map fun j => outputByte s.rate.toNat s.lanes (s.cursor.toNat + j),
      round := r, free := f }

/-- Derived from R84 to R89 and R101: the block computes the sponge of its input, for every rate, delimiter, input and
output length. -/
def Obligations.BlockComputesTheSponge : Prop :=
  ∀ (rate delim : Byte) (bytes : List Byte) (n : Nat) (s : State), s.err = false → PortIdle s →
    1 ≤ rate.toNat → rate.toNat ≤ 200 →
    ∃ t, runCommands (hashCommands rate delim bytes n) s = .next t ∧
      t.responses = s.responses ++ spongeOutput rate.toNat delim bytes n ∧ t.fsm = .squeezing ∧ t.err = false

/-- R97: a longer output extends every shorter one. -/
def Obligations.LongerOutputExtendsShorter : Prop :=
  ∀ (m n : Nat) (s : State), m ≤ n → s.err = false → s.fsm = .squeezing → FsmInv s → PortIdle s →
    ∃ t u more, runCommands (List.replicate m .squeeze) s = .next t ∧
      runCommands (List.replicate n .squeeze) s = .next u ∧
      t.responses.length = s.responses.length + m ∧ u.responses = t.responses ++ more

/-- R111: no sequence of computations as the source's interface gives them raises an error. -/
def Obligations.LegalSequencesRaiseNoError : Prop :=
  ∀ (cs : List Computation) (s : State), s.err = false → PortIdle s →
    (∀ c ∈ cs, 1 ≤ c.rate.toNat ∧ c.rate.toNat ≤ 200) →
    ∃ t, runCommands (cs.flatMap Computation.commands) s = .next t ∧ t.err = false

/-! ### The host's side -/

/-- R99: the rates, digest lengths and INIT words of the four variants. -/
def Obligations.VariantsHaveTheirInitWords : Prop :=
  [Variant.keccak224, .keccak256, .keccak384, .keccak512].map
    (fun v => (variantRate v, encode (variantInit v), digestLength v)) =
  [(144, 0x10000190, 28), (136, 0x10000188, 32), (104, 0x10000168, 48), (72, 0x10000148, 64)]

/-- Derived from R61 and R62, every kind of line: the assembler refuses exactly the numbers that do not fit 8 bits and the
characters that are not ASCII, and pseudo-commands expand to their commands in order, refused exactly when one of those
is. The model's DESIGN CHOICE of log entry 8, in three places: a character literal is refused from code 128 on (R61 has
'its ASCII code'; 128 to 255 would fit 8 bits), the count of SQUEEZEN and HASH has no 8-bit bound, and the bytes of a
pseudo-command may be character literals. -/
def Obligations.AssemblerRefusesAndExpands : Prop :=
  (assemble .nop = some [.nop] ∧ assemble .finalize = some [.finalize] ∧ assemble .squeeze = some [.squeeze] ∧
    assemble .permute = some [.permute]) ∧
  (∀ rate delim : Nat, assemble (.init rate delim) =
    if rate < 256 ∧ delim < 256 then some [.init (BitVec.ofNat 8 rate) (BitVec.ofNat 8 delim)] else none) ∧
  (∀ n : Nat, assemble (.absorb (.num n)) = if n < 256 then some [.absorb (BitVec.ofNat 8 n)] else none) ∧
  (∀ ch : Char, assemble (.absorb (.chr ch)) =
    if ch.toNat < 128 then some [.absorb (BitVec.ofNat 8 ch.toNat)] else none) ∧
  (∀ n : Nat, assemble (.peek n) = if n < 256 then some [.peek (BitVec.ofNat 8 n)] else none) ∧
  (∀ bs : List AsmByte, assemble (.absorbs bs) = (bs.mapM fun b => assemble (.absorb b)).map List.flatten) ∧
  (∀ n : Nat, assemble (.squeezen n) = some (List.replicate n .squeeze)) ∧
  (∀ (rate delim : Nat) (bs : List AsmByte) (n : Nat), assemble (.hash rate delim bs n) =
    (assemble (.init rate delim)).bind fun first => (assemble (.absorbs bs)).map fun bytes =>
      first ++ bytes ++ [.finalize] ++ List.replicate n .squeeze) ∧
  ∀ bs : List AsmByte,
    assemble (.keccak .keccak224 bs) = assemble (.hash 144 0x01 bs 28) ∧
    assemble (.keccak .keccak256 bs) = assemble (.hash 136 0x01 bs 32) ∧
    assemble (.keccak .keccak384 bs) = assemble (.hash 104 0x01 bs 48) ∧
    assemble (.keccak .keccak512 bs) = assemble (.hash 72 0x01 bs 64)

/-- Derived from R103 to R106: whatever the calls, the selector has either issued nothing and holds all bytes in order
within the threshold, or has committed and issued ABSORB of all of them in order, each once; its sponge instance stays
the one it was constructed with, and the committed flag never falls. -/
def Obligations.SelectorForwardsAllBytesInOrder : Prop :=
  (∀ (sp : SpongeInstance) (calls : List (List Byte)),
    match Hasher.updates (.adaptive (Selector.fresh sp)) calls with
    | (.adaptive ⟨own, .buffering raw⟩, is) =>
      own = sp ∧ is = [] ∧ raw = calls.flatten ∧ raw.length ≤ Config.threshold
    | (.adaptive ⟨own, .committed⟩, is) =>
      own = sp ∧ is = updateCommands calls.flatten ∧ Config.threshold < calls.flatten.length
    | (.direct _, _) => False) ∧
  ∀ (sel : Selector) (bytes : List Byte), sel.isCommitted = true → (sel.update bytes).1.isCommitted = true

/-- Derived from R100 to R102: under the direct strategy a hasher's session is INIT, ABSORB of every byte of every call in
order, FINALIZE and n SQUEEZEs, with no buffering, however the input is cut into calls. -/
def Obligations.DirectStrategyIssuesEveryByte : Prop :=
  ∀ (sp : SpongeInstance) (calls : List (List Byte)) (n : Nat),
    hasherSession { strategy := .direct, sponge := sp } calls n =
      { commands := hashCommands sp.rate sp.delim calls.flatten n, ending := .commands (finalizeCommands n) }

/-- Derived from R102 to R108: the adaptive strategy, behind the same interface, takes one of two paths. Up to the
threshold the block gets INIT alone, stays in ABSORBING with nothing absorbed, and the end is the primitive's digest of
all the bytes with the delimiter of that INIT, or fatal where the primitive rejects the call; beyond it the session is
the direct strategy's. That the digest slice is returned whole, whatever n, is the model's DESIGN CHOICE (log entry 14). -/
def Obligations.AdaptiveStrategyTakesOnePath : Prop :=
  ∀ (sp : SpongeInstance) (calls : List (List Byte)) (n : Nat),
    (calls.flatten.length ≤ Config.threshold →
      hasherSession { strategy := .adaptive, sponge := sp } calls n =
        { commands := [.init sp.rate sp.delim],
          ending := match Config.accelDigest calls.flatten sp.delim with
            | some d => .digest d
            | none => .fatal } ∧
      ∀ s : State, s.err = false → 1 ≤ sp.rate.toNat → sp.rate.toNat ≤ 200 →
        runCommands (hasherSession { strategy := .adaptive, sponge := sp } calls n).commands s =
          .next { s with lanes := zeroLanes, rate := sp.rate, delim := sp.delim, cursor := 0, fsm := .absorbing }) ∧
    (Config.threshold < calls.flatten.length →
      hasherSession { strategy := .adaptive, sponge := sp } calls n =
        hasherSession { strategy := .direct, sponge := sp } calls n)
end

