-- ==== Sys2Proof/Laws/HostDriver.lean ====
section
/-! SUPPORT. What each host-side call can do, said once (45_host_interface.md R100 to R107). -/

namespace Sys2Proof.Machine

@[simp] theorem updateCommands_nil : updateCommands [] = [] := rfl

/-- `update(a); update(b)` issues what `update(a ++ b)` does (R100). -/
theorem updateCommands_append (a b : List Byte) : updateCommands (a ++ b) = updateCommands a ++ updateCommands b := by
  simp [updateCommands]

/-! ### Construction -/

@[simp] theorem construct_direct (sp : SpongeInstance) :
    Hasher.construct { strategy := .direct, sponge := sp } = (.direct sp, [.init sp.rate sp.delim]) := rfl

@[simp] theorem construct_adaptive (sp : SpongeInstance) :
    Hasher.construct { strategy := .adaptive, sponge := sp } =
      (.adaptive { sponge := sp, phase := .buffering [] }, [.init sp.rate sp.delim]) := rfl

/-! ### One call of `update` -/

@[simp] theorem update_direct (sp : SpongeInstance) (bytes : List Byte) :
    (Hasher.direct sp).update bytes = (.direct sp, updateCommands bytes) := rfl

/-- Within the threshold the bytes are buffered (R104). -/
theorem update_within {sp : SpongeInstance} {raw bytes : List Byte}
    (h : raw.length + bytes.length ≤ Config.threshold) :
    (Hasher.adaptive { sponge := sp, phase := .buffering raw }).update bytes =
      (.adaptive { sponge := sp, phase := .buffering (raw ++ bytes) }, []) := by
  simp [Hasher.update, Selector.update, h]

/-- Beyond it the selector commits (R105). -/
theorem update_beyond {sp : SpongeInstance} {raw bytes : List Byte}
    (h : Config.threshold < raw.length + bytes.length) :
    (Hasher.adaptive { sponge := sp, phase := .buffering raw }).update bytes =
      (.adaptive { sponge := sp, phase := .committed }, updateCommands (raw ++ bytes)) := by
  simp [Hasher.update, Selector.update, Selector.commit, Nat.not_le.mpr h, updateCommands_append]

@[simp] theorem update_committed (sp : SpongeInstance) (bytes : List Byte) :
    (Hasher.adaptive { sponge := sp, phase := .committed }).update bytes =
      (.adaptive { sponge := sp, phase := .committed }, updateCommands bytes) := rfl

/-! ### `finalize` -/

@[simp] theorem finalize_direct (sp : SpongeInstance) (n : Nat) :
    (Hasher.direct sp).finalize n = .commands (finalizeCommands n) := rfl

@[simp] theorem finalize_committed (sp : SpongeInstance) (n : Nat) :
    (Hasher.adaptive { sponge := sp, phase := .committed }).finalize n = .commands (finalizeCommands n) := rfl

theorem finalize_buffering (sp : SpongeInstance) (raw : List Byte) (n : Nat) :
    (Hasher.adaptive { sponge := sp, phase := .buffering raw }).finalize n =
      match Config.accelDigest raw sp.delim with
      | some d => .digest d
      | none => .fatal := rfl

/-- Only `commands` gives the block anything (R107). -/
@[simp] theorem issued_commands (is : List Instr) : (HasherFinal.commands is).issued = is := rfl
@[simp] theorem issued_digest (bytes : List Byte) : (HasherFinal.digest bytes).issued = [] := rfl
@[simp] theorem issued_fatal : HasherFinal.fatal.issued = [] := rfl

end Sys2Proof.Machine
end

