-- ==== Sys2Proof/Laws/State.lean ====
section
/-! SUPPORT. One lemma per field and update: reading a field after a register write (10_state.md R31). -/

namespace Sys2Proof.Machine

/-! ### `State.setLanes` -/

@[simp] theorem State.setLanes_lanes (A : Lanes) (s : State) : (s.setLanes A).lanes = A := rfl
@[simp] theorem State.setLanes_rate (A : Lanes) (s : State) : (s.setLanes A).rate = s.rate := rfl
@[simp] theorem State.setLanes_delim (A : Lanes) (s : State) : (s.setLanes A).delim = s.delim := rfl
@[simp] theorem State.setLanes_cursor (A : Lanes) (s : State) : (s.setLanes A).cursor = s.cursor := rfl
@[simp] theorem State.setLanes_fsm (A : Lanes) (s : State) : (s.setLanes A).fsm = s.fsm := rfl
@[simp] theorem State.setLanes_err (A : Lanes) (s : State) : (s.setLanes A).err = s.err := rfl
@[simp] theorem State.setLanes_errCode (A : Lanes) (s : State) : (s.setLanes A).errCode = s.errCode := rfl
@[simp] theorem State.setLanes_busy (A : Lanes) (s : State) : (s.setLanes A).busy = s.busy := rfl
@[simp] theorem State.setLanes_round (A : Lanes) (s : State) : (s.setLanes A).round = s.round := rfl
@[simp] theorem State.setLanes_rspPending (A : Lanes) (s : State) : (s.setLanes A).rspPending = s.rspPending := rfl
@[simp] theorem State.setLanes_rspReady (A : Lanes) (s : State) : (s.setLanes A).rspReady = s.rspReady := rfl
@[simp] theorem State.setLanes_host (A : Lanes) (s : State) : (s.setLanes A).host = s.host := rfl
@[simp] theorem State.setLanes_responses (A : Lanes) (s : State) : (s.setLanes A).responses = s.responses := rfl
@[simp] theorem State.setLanes_statusReads (A : Lanes) (s : State) : (s.setLanes A).statusReads = s.statusReads := rfl
@[simp] theorem State.setLanes_free (A : Lanes) (s : State) : (s.setLanes A).free = s.free := rfl

/-! ### `State.setCursor` -/

@[simp] theorem State.setCursor_lanes (c : Byte) (s : State) : (s.setCursor c).lanes = s.lanes := rfl
@[simp] theorem State.setCursor_rate (c : Byte) (s : State) : (s.setCursor c).rate = s.rate := rfl
@[simp] theorem State.setCursor_delim (c : Byte) (s : State) : (s.setCursor c).delim = s.delim := rfl
@[simp] theorem State.setCursor_cursor (c : Byte) (s : State) : (s.setCursor c).cursor = c := rfl
@[simp] theorem State.setCursor_fsm (c : Byte) (s : State) : (s.setCursor c).fsm = s.fsm := rfl
@[simp] theorem State.setCursor_err (c : Byte) (s : State) : (s.setCursor c).err = s.err := rfl
@[simp] theorem State.setCursor_errCode (c : Byte) (s : State) : (s.setCursor c).errCode = s.errCode := rfl
@[simp] theorem State.setCursor_busy (c : Byte) (s : State) : (s.setCursor c).busy = s.busy := rfl
@[simp] theorem State.setCursor_round (c : Byte) (s : State) : (s.setCursor c).round = s.round := rfl
@[simp] theorem State.setCursor_rspPending (c : Byte) (s : State) : (s.setCursor c).rspPending = s.rspPending := rfl
@[simp] theorem State.setCursor_rspReady (c : Byte) (s : State) : (s.setCursor c).rspReady = s.rspReady := rfl
@[simp] theorem State.setCursor_host (c : Byte) (s : State) : (s.setCursor c).host = s.host := rfl
@[simp] theorem State.setCursor_responses (c : Byte) (s : State) : (s.setCursor c).responses = s.responses := rfl
@[simp] theorem State.setCursor_statusReads (c : Byte) (s : State) : (s.setCursor c).statusReads = s.statusReads := rfl
@[simp] theorem State.setCursor_free (c : Byte) (s : State) : (s.setCursor c).free = s.free := rfl

/-! ### `State.setFsm` -/

@[simp] theorem State.setFsm_lanes (f : Fsm) (s : State) : (s.setFsm f).lanes = s.lanes := rfl
@[simp] theorem State.setFsm_rate (f : Fsm) (s : State) : (s.setFsm f).rate = s.rate := rfl
@[simp] theorem State.setFsm_delim (f : Fsm) (s : State) : (s.setFsm f).delim = s.delim := rfl
@[simp] theorem State.setFsm_cursor (f : Fsm) (s : State) : (s.setFsm f).cursor = s.cursor := rfl
@[simp] theorem State.setFsm_fsm (f : Fsm) (s : State) : (s.setFsm f).fsm = f := rfl
@[simp] theorem State.setFsm_err (f : Fsm) (s : State) : (s.setFsm f).err = s.err := rfl
@[simp] theorem State.setFsm_errCode (f : Fsm) (s : State) : (s.setFsm f).errCode = s.errCode := rfl
@[simp] theorem State.setFsm_busy (f : Fsm) (s : State) : (s.setFsm f).busy = s.busy := rfl
@[simp] theorem State.setFsm_round (f : Fsm) (s : State) : (s.setFsm f).round = s.round := rfl
@[simp] theorem State.setFsm_rspPending (f : Fsm) (s : State) : (s.setFsm f).rspPending = s.rspPending := rfl
@[simp] theorem State.setFsm_rspReady (f : Fsm) (s : State) : (s.setFsm f).rspReady = s.rspReady := rfl
@[simp] theorem State.setFsm_host (f : Fsm) (s : State) : (s.setFsm f).host = s.host := rfl
@[simp] theorem State.setFsm_responses (f : Fsm) (s : State) : (s.setFsm f).responses = s.responses := rfl
@[simp] theorem State.setFsm_statusReads (f : Fsm) (s : State) : (s.setFsm f).statusReads = s.statusReads := rfl
@[simp] theorem State.setFsm_free (f : Fsm) (s : State) : (s.setFsm f).free = s.free := rfl

/-! ### `State.setError` -/

@[simp] theorem State.setError_lanes (code : ErrCode) (s : State) : (s.setError code).lanes = s.lanes := rfl
@[simp] theorem State.setError_rate (code : ErrCode) (s : State) : (s.setError code).rate = s.rate := rfl
@[simp] theorem State.setError_delim (code : ErrCode) (s : State) : (s.setError code).delim = s.delim := rfl
@[simp] theorem State.setError_cursor (code : ErrCode) (s : State) : (s.setError code).cursor = s.cursor := rfl
@[simp] theorem State.setError_fsm (code : ErrCode) (s : State) : (s.setError code).fsm = s.fsm := rfl
@[simp] theorem State.setError_err (code : ErrCode) (s : State) : (s.setError code).err = true := rfl
@[simp] theorem State.setError_errCode (code : ErrCode) (s : State) : (s.setError code).errCode = code := rfl
@[simp] theorem State.setError_busy (code : ErrCode) (s : State) : (s.setError code).busy = s.busy := rfl
@[simp] theorem State.setError_round (code : ErrCode) (s : State) : (s.setError code).round = s.round := rfl
@[simp] theorem State.setError_rspPending (code : ErrCode) (s : State) : (s.setError code).rspPending = s.rspPending := rfl
@[simp] theorem State.setError_rspReady (code : ErrCode) (s : State) : (s.setError code).rspReady = s.rspReady := rfl
@[simp] theorem State.setError_host (code : ErrCode) (s : State) : (s.setError code).host = s.host := rfl
@[simp] theorem State.setError_responses (code : ErrCode) (s : State) : (s.setError code).responses = s.responses := rfl
@[simp] theorem State.setError_statusReads (code : ErrCode) (s : State) : (s.setError code).statusReads = s.statusReads := rfl
@[simp] theorem State.setError_free (code : ErrCode) (s : State) : (s.setError code).free = s.free := rfl

/-! ### `State.freeRound` -/

@[simp] theorem State.freeRound_lanes (s : State) : (s.freeRound).lanes = s.lanes := rfl
@[simp] theorem State.freeRound_rate (s : State) : (s.freeRound).rate = s.rate := rfl
@[simp] theorem State.freeRound_delim (s : State) : (s.freeRound).delim = s.delim := rfl
@[simp] theorem State.freeRound_cursor (s : State) : (s.freeRound).cursor = s.cursor := rfl
@[simp] theorem State.freeRound_fsm (s : State) : (s.freeRound).fsm = s.fsm := rfl
@[simp] theorem State.freeRound_err (s : State) : (s.freeRound).err = s.err := rfl
@[simp] theorem State.freeRound_errCode (s : State) : (s.freeRound).errCode = s.errCode := rfl
@[simp] theorem State.freeRound_busy (s : State) : (s.freeRound).busy = s.busy := rfl
@[simp] theorem State.freeRound_round (s : State) : (s.freeRound).round = Config.freeRound s.free := rfl
@[simp] theorem State.freeRound_rspPending (s : State) : (s.freeRound).rspPending = s.rspPending := rfl
@[simp] theorem State.freeRound_rspReady (s : State) : (s.freeRound).rspReady = s.rspReady := rfl
@[simp] theorem State.freeRound_host (s : State) : (s.freeRound).host = s.host := rfl
@[simp] theorem State.freeRound_responses (s : State) : (s.freeRound).responses = s.responses := rfl
@[simp] theorem State.freeRound_statusReads (s : State) : (s.freeRound).statusReads = s.statusReads := rfl
@[simp] theorem State.freeRound_free (s : State) : (s.freeRound).free = s.free + 1 := rfl

/-! ### `State.permute` -/

@[simp] theorem State.permute_lanes (s : State) : (s.permute).lanes = keccakF s.lanes := rfl
@[simp] theorem State.permute_rate (s : State) : (s.permute).rate = s.rate := rfl
@[simp] theorem State.permute_delim (s : State) : (s.permute).delim = s.delim := rfl
@[simp] theorem State.permute_cursor (s : State) : (s.permute).cursor = s.cursor := rfl
@[simp] theorem State.permute_fsm (s : State) : (s.permute).fsm = s.fsm := rfl
@[simp] theorem State.permute_err (s : State) : (s.permute).err = s.err := rfl
@[simp] theorem State.permute_errCode (s : State) : (s.permute).errCode = s.errCode := rfl
@[simp] theorem State.permute_busy (s : State) : (s.permute).busy = s.busy := rfl
@[simp] theorem State.permute_round (s : State) : (s.permute).round = Config.freeRound s.free := rfl
@[simp] theorem State.permute_rspPending (s : State) : (s.permute).rspPending = s.rspPending := rfl
@[simp] theorem State.permute_rspReady (s : State) : (s.permute).rspReady = s.rspReady := rfl
@[simp] theorem State.permute_host (s : State) : (s.permute).host = s.host := rfl
@[simp] theorem State.permute_responses (s : State) : (s.permute).responses = s.responses := rfl
@[simp] theorem State.permute_statusReads (s : State) : (s.permute).statusReads = s.statusReads := rfl
@[simp] theorem State.permute_free (s : State) : (s.permute).free = s.free + 1 := rfl

/-! ### `State.configure` -/

@[simp] theorem State.configure_lanes (rate delim : Byte) (s : State) : (s.configure rate delim).lanes = zeroLanes := rfl
@[simp] theorem State.configure_rate (rate delim : Byte) (s : State) : (s.configure rate delim).rate = rate := rfl
@[simp] theorem State.configure_delim (rate delim : Byte) (s : State) : (s.configure rate delim).delim = delim := rfl
@[simp] theorem State.configure_cursor (rate delim : Byte) (s : State) : (s.configure rate delim).cursor = 0 := rfl
@[simp] theorem State.configure_fsm (rate delim : Byte) (s : State) : (s.configure rate delim).fsm = .absorbing := rfl
@[simp] theorem State.configure_err (rate delim : Byte) (s : State) : (s.configure rate delim).err = s.err := rfl
@[simp] theorem State.configure_errCode (rate delim : Byte) (s : State) : (s.configure rate delim).errCode = s.errCode := rfl
@[simp] theorem State.configure_busy (rate delim : Byte) (s : State) : (s.configure rate delim).busy = s.busy := rfl
@[simp] theorem State.configure_round (rate delim : Byte) (s : State) : (s.configure rate delim).round = s.round := rfl
@[simp] theorem State.configure_rspPending (rate delim : Byte) (s : State) : (s.configure rate delim).rspPending = s.rspPending := rfl
@[simp] theorem State.configure_rspReady (rate delim : Byte) (s : State) : (s.configure rate delim).rspReady = s.rspReady := rfl
@[simp] theorem State.configure_host (rate delim : Byte) (s : State) : (s.configure rate delim).host = s.host := rfl
@[simp] theorem State.configure_responses (rate delim : Byte) (s : State) : (s.configure rate delim).responses = s.responses := rfl
@[simp] theorem State.configure_statusReads (rate delim : Byte) (s : State) : (s.configure rate delim).statusReads = s.statusReads := rfl
@[simp] theorem State.configure_free (rate delim : Byte) (s : State) : (s.configure rate delim).free = s.free := rfl

/-! ### The response port: `State.deliver`, `State.emit`, `State.emitZeroIf` write only its own fields -/

@[simp] theorem State.deliver_lanes (s : State) : s.deliver.lanes = s.lanes := by
  unfold State.deliver; split <;> [split <;> rfl; rfl]
@[simp] theorem State.deliver_rate (s : State) : s.deliver.rate = s.rate := by
  unfold State.deliver; split <;> [split <;> rfl; rfl]
@[simp] theorem State.deliver_delim (s : State) : s.deliver.delim = s.delim := by
  unfold State.deliver; split <;> [split <;> rfl; rfl]
@[simp] theorem State.deliver_cursor (s : State) : s.deliver.cursor = s.cursor := by
  unfold State.deliver; split <;> [split <;> rfl; rfl]
@[simp] theorem State.deliver_fsm (s : State) : s.deliver.fsm = s.fsm := by
  unfold State.deliver; split <;> [split <;> rfl; rfl]
@[simp] theorem State.deliver_err (s : State) : s.deliver.err = s.err := by
  unfold State.deliver; split <;> [split <;> rfl; rfl]
@[simp] theorem State.deliver_errCode (s : State) : s.deliver.errCode = s.errCode := by
  unfold State.deliver; split <;> [split <;> rfl; rfl]
@[simp] theorem State.deliver_round (s : State) : s.deliver.round = s.round := by
  unfold State.deliver; split <;> [split <;> rfl; rfl]
@[simp] theorem State.deliver_rspReady (s : State) : s.deliver.rspReady = s.rspReady := by
  unfold State.deliver; split <;> [split <;> rfl; rfl]
@[simp] theorem State.deliver_host (s : State) : s.deliver.host = s.host := by
  unfold State.deliver; split <;> [split <;> rfl; rfl]
@[simp] theorem State.deliver_statusReads (s : State) : s.deliver.statusReads = s.statusReads := by
  unfold State.deliver; split <;> [split <;> rfl; rfl]
@[simp] theorem State.deliver_free (s : State) : s.deliver.free = s.free := by
  unfold State.deliver; split <;> [split <;> rfl; rfl]

@[simp] theorem State.emit_lanes (b : Byte) (s : State) : (s.emit b).lanes = s.lanes := by simp [State.emit]
@[simp] theorem State.emit_rate (b : Byte) (s : State) : (s.emit b).rate = s.rate := by simp [State.emit]
@[simp] theorem State.emit_delim (b : Byte) (s : State) : (s.emit b).delim = s.delim := by simp [State.emit]
@[simp] theorem State.emit_cursor (b : Byte) (s : State) : (s.emit b).cursor = s.cursor := by simp [State.emit]
@[simp] theorem State.emit_fsm (b : Byte) (s : State) : (s.emit b).fsm = s.fsm := by simp [State.emit]
@[simp] theorem State.emit_err (b : Byte) (s : State) : (s.emit b).err = s.err := by simp [State.emit]
@[simp] theorem State.emit_errCode (b : Byte) (s : State) : (s.emit b).errCode = s.errCode := by simp [State.emit]
@[simp] theorem State.emit_round (b : Byte) (s : State) : (s.emit b).round = s.round := by simp [State.emit]
@[simp] theorem State.emit_rspReady (b : Byte) (s : State) : (s.emit b).rspReady = s.rspReady := by simp [State.emit]
@[simp] theorem State.emit_host (b : Byte) (s : State) : (s.emit b).host = s.host := by simp [State.emit]
@[simp] theorem State.emit_statusReads (b : Byte) (s : State) : (s.emit b).statusReads = s.statusReads := by simp [State.emit]
@[simp] theorem State.emit_free (b : Byte) (s : State) : (s.emit b).free = s.free := by simp [State.emit]

@[simp] theorem State.emitZeroIf_lanes (r : Bool) (s : State) : (s.emitZeroIf r).lanes = s.lanes := by
  cases r <;> simp [State.emitZeroIf]
@[simp] theorem State.emitZeroIf_rate (r : Bool) (s : State) : (s.emitZeroIf r).rate = s.rate := by
  cases r <;> simp [State.emitZeroIf]
@[simp] theorem State.emitZeroIf_delim (r : Bool) (s : State) : (s.emitZeroIf r).delim = s.delim := by
  cases r <;> simp [State.emitZeroIf]
@[simp] theorem State.emitZeroIf_cursor (r : Bool) (s : State) : (s.emitZeroIf r).cursor = s.cursor := by
  cases r <;> simp [State.emitZeroIf]
@[simp] theorem State.emitZeroIf_fsm (r : Bool) (s : State) : (s.emitZeroIf r).fsm = s.fsm := by
  cases r <;> simp [State.emitZeroIf]
@[simp] theorem State.emitZeroIf_err (r : Bool) (s : State) : (s.emitZeroIf r).err = s.err := by
  cases r <;> simp [State.emitZeroIf]
@[simp] theorem State.emitZeroIf_errCode (r : Bool) (s : State) : (s.emitZeroIf r).errCode = s.errCode := by
  cases r <;> simp [State.emitZeroIf]
@[simp] theorem State.emitZeroIf_round (r : Bool) (s : State) : (s.emitZeroIf r).round = s.round := by
  cases r <;> simp [State.emitZeroIf]
@[simp] theorem State.emitZeroIf_rspReady (r : Bool) (s : State) : (s.emitZeroIf r).rspReady = s.rspReady := by
  cases r <;> simp [State.emitZeroIf]
@[simp] theorem State.emitZeroIf_host (r : Bool) (s : State) : (s.emitZeroIf r).host = s.host := by
  cases r <;> simp [State.emitZeroIf]
@[simp] theorem State.emitZeroIf_statusReads (r : Bool) (s : State) : (s.emitZeroIf r).statusReads = s.statusReads := by
  cases r <;> simp [State.emitZeroIf]
@[simp] theorem State.emitZeroIf_free (r : Bool) (s : State) : (s.emitZeroIf r).free = s.free := by
  cases r <;> simp [State.emitZeroIf]

end Sys2Proof.Machine
end

