-- ==== Sys2Proof/Laws/Ops.lean ====
section
/-! SUPPORT. What each shared operation and each meaning can do, said once, for proofs to cite instead of unfolding. -/

namespace Sys2Proof.Machine

/-! ### Outcomes -/

@[simp] theorem andThen_next (s : State) (f : State → Outcome) : andThen (.next s) f = f s := rfl
@[simp] theorem andThen_fault (r : Fault) (f : State → Outcome) : andThen (.fault r) f = .fault r := rfl
@[simp] theorem andThen_refused (r : Refusal) (f : State → Outcome) : andThen (.refused r) f = .refused r := rfl
@[simp] theorem nextState_next (s : State) : nextState (.next s) = some s := rfl

theorem andThen_eq_next {o : Outcome} {f : State → Outcome} {t : State} :
    andThen o f = .next t ↔ ∃ s, o = .next s ∧ f s = .next t := by
  cases o <;> simp

/-! ### Byte indexes -/

theorem byteIndex_of_lt {k : Byte} (h : k.toNat < 200) : byteIndex k = some ⟨k.toNat, h⟩ := by
  simp [byteIndex, h]

theorem byteIndex_of_ge {k : Byte} (h : 200 ≤ k.toNat) : byteIndex k = none := by
  simp [byteIndex, Nat.not_lt.mpr h]

theorem xorByte_of_lt {k : Byte} (h : k.toNat < 200) (v : Byte) (s : State) :
    s.xorByte k v = .next (s.setLanes (xorStateByte s.lanes ⟨k.toNat, h⟩ v)) := by
  simp [State.xorByte, byteIndex_of_lt h]

theorem emitByte_of_lt {k : Byte} (h : k.toNat < 200) (s : State) (f : State → State) :
    s.emitByte k f = .next (f (s.emit (stateByte s.lanes ⟨k.toNat, h⟩))) := by
  simp [State.emitByte, byteIndex_of_lt h]

/-- A byte exclusive-ored in answers a next state only inside the space, and changes the lanes only. -/
theorem xorByte_cases {k v : Byte} {s t : State} (h : s.xorByte k v = .next t) :
    ∃ hk : k.toNat < 200, t = s.setLanes (xorStateByte s.lanes ⟨k.toNat, hk⟩ v) := by
  by_cases hk : k.toNat < 200
  · rw [xorByte_of_lt hk] at h
    exact ⟨hk, by cases h; rfl⟩
  · simp [State.xorByte, byteIndex_of_ge (Nat.le_of_not_lt hk)] at h

/-- A byte emitted answers a next state only inside the space. -/
theorem emitByte_cases {k : Byte} {s t : State} {f : State → State} (h : s.emitByte k f = .next t) :
    ∃ hk : k.toNat < 200, t = f (s.emit (stateByte s.lanes ⟨k.toNat, hk⟩)) := by
  by_cases hk : k.toNat < 200
  · rw [emitByte_of_lt hk] at h
    exact ⟨hk, by cases h; rfl⟩
  · simp [State.emitByte, byteIndex_of_ge (Nat.le_of_not_lt hk)] at h

/-! ### The response port -/

theorem emit_ready (b : Byte) {s : State} (h : s.rspReady = true) :
    s.emit b = { s with responses := s.responses ++ [b], rspPending := none, busy := false } := by
  simp [State.emit, State.deliver, h]

theorem emit_waiting (b : Byte) {s : State} (h : s.rspReady = false) :
    s.emit b = { s with rspPending := some b, busy := true } := by
  simp [State.emit, State.deliver, h]

theorem deliver_ready {s : State} {b : Byte} (hb : s.rspPending = some b) (h : s.rspReady = true) :
    s.deliver = { s with responses := s.responses ++ [b], rspPending := none, busy := false } := by
  simp [State.deliver, hb, h]

@[simp] theorem emitZeroIf_false (s : State) : s.emitZeroIf false = s := rfl
@[simp] theorem emitZeroIf_true (s : State) : s.emitZeroIf true = s.emit 0x00 := rfl

/-- After an emit the port is as the invariant asks: busy exactly with a byte that the host does not take. -/
theorem emit_portInv (b : Byte) (s : State) : PortInv (s.emit b) := by
  cases h : s.rspReady
  · simp [emit_waiting b h, PortInv, h]
  · simp [emit_ready b h, PortInv]

/-! ### The lock -/

theorem unlessLocked_locked {r : Bool} {s : State} {o : Outcome} (h : s.err = true) :
    unlessLocked r s o = .next (s.emitZeroIf r) := by
  simp [unlessLocked, h]

theorem unlessLocked_open {r : Bool} {s : State} {o : Outcome} (h : s.err = false) : unlessLocked r s o = o := by
  simp [unlessLocked, h]

/-- A command is discarded by the lock or runs its body. -/
theorem unlessLocked_cases {r : Bool} {s t : State} {o : Outcome} (h : unlessLocked r s o = .next t) :
    (s.err = true ∧ t = s.emitZeroIf r) ∨ (s.err = false ∧ o = .next t) := by
  cases he : s.err
  · exact .inr ⟨rfl, by simpa [unlessLocked, he] using h⟩
  · exact .inl ⟨rfl, by simpa [unlessLocked, he] using h.symm⟩

/-! ### What each command can do when it answers a next state -/

theorem execNop_cases {s t : State} (h : execNop s = .next t) : t = s := by
  rcases unlessLocked_cases h with ⟨-, h⟩ | ⟨-, h⟩
  · simpa using h
  · cases h; rfl

theorem execPermute_cases {s t : State} (h : execPermute s = .next t) :
    (s.err = true ∧ t = s) ∨ (s.err = false ∧ t = s.permute) := by
  rcases unlessLocked_cases h with ⟨he, h⟩ | ⟨he, h⟩
  · exact .inl ⟨he, by simpa using h⟩
  · exact .inr ⟨he, by cases h; rfl⟩

theorem execInit_cases {rate delim : Byte} {s t : State} (h : execInit rate delim s = .next t) :
    (s.err = true ∧ t = s) ∨ (s.err = false ∧ rateLegal rate = true ∧ t = s.configure rate delim) ∨
      (s.err = false ∧ rateLegal rate = false ∧ t = s.setError .badRate) := by
  rcases unlessLocked_cases h with ⟨he, h⟩ | ⟨he, h⟩
  · exact .inl ⟨he, by simpa using h⟩
  · cases hr : rateLegal rate
    · exact .inr (.inr ⟨he, rfl, by simpa [hr, raiseError] using h.symm⟩)
    · exact .inr (.inl ⟨he, rfl, by simpa [hr] using h.symm⟩)

theorem execAbsorb_cases {data : Byte} {s t : State} (h : execAbsorb data s = .next t) :
    (s.err = true ∧ t = s) ∨ (s.err = false ∧ s.fsm ≠ .absorbing ∧ t = s.setError .badState) ∨
      (s.err = false ∧ s.fsm = .absorbing ∧ ∃ hk : s.cursor.toNat < 200,
        t = (s.setLanes (xorStateByte s.lanes ⟨s.cursor.toNat, hk⟩ data)).advanceAbsorb) := by
  rcases unlessLocked_cases h with ⟨he, h⟩ | ⟨he, h⟩
  · exact .inl ⟨he, by simpa using h⟩
  · by_cases hf : s.fsm = .absorbing
    · rw [if_pos hf] at h
      obtain ⟨s1, h1, h2⟩ := andThen_eq_next.mp h
      obtain ⟨hk, rfl⟩ := xorByte_cases h1
      exact .inr (.inr ⟨he, hf, hk, by cases h2; rfl⟩)
    · exact .inr (.inl ⟨he, hf, by simpa [hf, raiseError] using h.symm⟩)

theorem execFinalize_cases {s t : State} (h : execFinalize s = .next t) :
    (s.err = true ∧ t = s) ∨ (s.err = false ∧ s.fsm ≠ .absorbing ∧ t = s.setError .badState) ∨
      (s.err = false ∧ s.fsm = .absorbing ∧
        ∃ (hk : s.cursor.toNat < 200) (hr : (s.rate - 1).toNat < 200),
          t = (((s.setLanes (xorStateByte (xorStateByte s.lanes ⟨s.cursor.toNat, hk⟩ s.delim)
            ⟨(s.rate - 1).toNat, hr⟩ 0x80)).permute.setCursor 0).setFsm .squeezing)) := by
  rcases unlessLocked_cases h with ⟨he, h⟩ | ⟨he, h⟩
  · exact .inl ⟨he, by simpa using h⟩
  · by_cases hf : s.fsm = .absorbing
    · rw [if_pos hf] at h
      obtain ⟨s1, h1, h2⟩ := andThen_eq_next.mp h
      obtain ⟨hk, rfl⟩ := xorByte_cases h1
      obtain ⟨s2, h3, h4⟩ := andThen_eq_next.mp h2
      obtain ⟨hr, rfl⟩ := xorByte_cases h3
      exact .inr (.inr ⟨he, hf, hk, hr, by cases h4; rfl⟩)
    · exact .inr (.inl ⟨he, hf, by simpa [hf, raiseError] using h.symm⟩)

theorem execSqueeze_cases {s t : State} (h : execSqueeze s = .next t) :
    (s.err = true ∧ t = s.emit 0x00) ∨ (s.err = false ∧ s.fsm ≠ .squeezing ∧ t = (s.setError .badState).emit 0x00) ∨
      (s.err = false ∧ s.fsm = .squeezing ∧ ∃ hk : s.startBlock.cursor.toNat < 200,
        t = (s.startBlock.emit (stateByte s.startBlock.lanes ⟨s.startBlock.cursor.toNat, hk⟩)).setCursor
          (s.startBlock.cursor + 1)) := by
  rcases unlessLocked_cases h with ⟨he, h⟩ | ⟨he, h⟩
  · exact .inl ⟨he, by simpa using h⟩
  · by_cases hf : s.fsm = .squeezing
    · rw [if_pos hf] at h
      obtain ⟨hk, rfl⟩ := emitByte_cases h
      exact .inr (.inr ⟨he, hf, hk, by simp⟩)
    · exact .inr (.inl ⟨he, hf, by simpa [hf, raiseError] using h.symm⟩)

theorem execPeek_cases {index : Byte} {s t : State} (h : execPeek index s = .next t) :
    (s.err = true ∧ t = s.emit 0x00) ∨
      (s.err = false ∧ index.toNat > 199 ∧ t = (s.setError .badIndex).emit 0x00) ∨
      (s.err = false ∧ ∃ hk : index.toNat < 200, t = s.emit (stateByte s.lanes ⟨index.toNat, hk⟩)) := by
  rcases unlessLocked_cases h with ⟨he, h⟩ | ⟨he, h⟩
  · exact .inl ⟨he, by simpa using h⟩
  · by_cases hi : index.toNat > 199
    · exact .inr (.inl ⟨he, hi, by simpa [hi, raiseError] using h.symm⟩)
    · rw [if_neg hi] at h
      obtain ⟨hk, rfl⟩ := emitByte_cases h
      exact .inr (.inr ⟨he, hk, rfl⟩)

theorem rejectWord_cases {r : Bool} {code : ErrCode} {s t : State} (h : rejectWord r code s = .next t) :
    (s.err = true ∧ t = s.emitZeroIf r) ∨ (s.err = false ∧ t = (s.setError code).emitZeroIf r) := by
  rcases unlessLocked_cases h with ⟨he, h⟩ | ⟨he, h⟩
  · exact .inl ⟨he, h⟩
  · exact .inr ⟨he, by simpa [raiseError] using h.symm⟩

/-- A rejected word on an unlocked block raises its error. -/
theorem rejectWord_open {r : Bool} {code : ErrCode} {s : State} (h : s.err = false) :
    rejectWord r code s = .next ((s.setError code).emitZeroIf r) := by
  simp [rejectWord, unlessLocked_open h, raiseError]

/-- A rejected word on a locked block is discarded. -/
theorem rejectWord_locked {r : Bool} {code : ErrCode} {s : State} (h : s.err = true) :
    rejectWord r code s = .next (s.emitZeroIf r) := unlessLocked_locked h

/-! ### What a step can do -/

/-- A step is idle, holds an offered word, accepts a word, or serves one of the other events. -/
theorem step_cases {s t : State} (h : step s = .next t) :
    (s.host = [] ∧ t = s) ∨
    (∃ w rest, s.host = .command w :: rest ∧ s.busy = true ∧ t = s) ∨
    (∃ w rest, (s.host = .command w :: rest ∨ s.host = .commandWithdrawn w :: rest) ∧ s.busy = false ∧
      acceptWord w { s with host := rest } = .next t) ∨
    (∃ level rest, s.host = .rspReady level :: rest ∧ t = State.setRspReady level { s with host := rest }) ∨
    (∃ rest, s.host = .reset :: rest ∧ t = State.resetEdge { s with host := rest }) ∨
    (∃ rest, s.host = .readStatus :: rest ∧ t = State.readStatus { s with host := rest }) := by
  unfold step at h
  cases hh : s.host with
  | nil => left; rw [hh] at h; cases h; exact ⟨rfl, rfl⟩
  | cons e rest =>
    rw [hh] at h
    right
    cases e with
    | command w =>
      cases hb : s.busy
      · right; left
        exact ⟨w, rest, .inl rfl, rfl, by simpa [serveEvent, cmdReady, hb] using h⟩
      · left
        exact ⟨w, rest, rfl, rfl, by simpa [serveEvent, cmdReady, hb] using h.symm⟩
    | commandWithdrawn w =>
      cases hb : s.busy
      · right; left
        exact ⟨w, rest, .inr rfl, rfl, by simpa [serveEvent, cmdReady, hb] using h⟩
      · simp [serveEvent, cmdReady, hb] at h
    | rspReady level => right; right; left; cases h; exact ⟨level, rest, rfl, rfl⟩
    | reset => right; right; right; left; cases h; exact ⟨rest, rfl, rfl⟩
    | readStatus => right; right; right; right; cases h; exact ⟨rest, rfl, rfl⟩

/-- An accepted word is a command that runs, or a word the decoder rejects. -/
theorem acceptWord_cases {w : Word} {s t : State} (h : acceptWord w s = .next t) :
    (∃ i, decode w = .instr i ∧ exec i s = .next t) ∨
    (decode w = .reserved ∧ rejectWord (wordResponds w) .reservedField s = .next t) ∨
    (decode w = .illegal ∧ rejectWord false .illegalOpcode s = .next t) := by
  unfold acceptWord at h
  split at h
  · exact .inl ⟨_, by assumption, h⟩
  · exact .inr (.inl ⟨by assumption, h⟩)
  · exact .inr (.inr ⟨by assumption, h⟩)

end Sys2Proof.Machine
end

