-- ==== Sys2Proof/Laws/PerInstr.lean ====
section
/-! SUPPORT. Statements per command: the fixed fields of its encoding (30_encoding.md R52, R53). -/

namespace Sys2Proof.Laws

/-- The word of a command has the command's opcode in OP and zero in RSV (R52). -/
def EncodeFields.Statement (i : Instr) : Prop := opField (encode i) = i.opcode ∧ rsvField (encode i) = 0

/-- The OP field of a packed word (R52). -/
theorem opField_packWord (op : BitVec 4) (b a : Byte) : opField (packWord op b a) = op := by
  ext i hi
  simp only [opField, packWord, BitVec.getElem_extractLsb', BitVec.getLsbD_append]
  have h1 : ¬ 28 + i < 8 := by omega
  have h2 : ¬ 28 + i - 8 < 8 := by omega
  have h3 : ¬ 28 + i - 8 - 8 < 12 := by omega
  simp [h1, h2, h3, show 28 + i - 8 - 8 - 12 = i by omega, hi]

/-- The RSV field of a packed word (R52). -/
theorem rsvField_packWord (op : BitVec 4) (b a : Byte) : rsvField (packWord op b a) = 0 := by
  ext i hi
  simp only [rsvField, packWord, BitVec.getElem_extractLsb', BitVec.getLsbD_append]
  have h1 : ¬ 16 + i < 8 := by omega
  have h2 : ¬ 16 + i - 8 < 8 := by omega
  have h3 : 16 + i - 8 - 8 < 12 := by omega
  simp [h1, h2, h3]

/-- The fixed fields of a packed word (R52). -/
theorem packWord_fields (op : BitVec 4) (b a : Byte) :
    opField (packWord op b a) = op ∧ rsvField (packWord op b a) = 0 :=
  ⟨opField_packWord op b a, rsvField_packWord op b a⟩

theorem EncodeFields.nop : EncodeFields.Statement .nop := packWord_fields _ _ _
theorem EncodeFields.init (rate delim : Byte) : EncodeFields.Statement (.init rate delim) := packWord_fields _ _ _
theorem EncodeFields.absorb (data : Byte) : EncodeFields.Statement (.absorb data) := packWord_fields _ _ _
theorem EncodeFields.finalize : EncodeFields.Statement .finalize := packWord_fields _ _ _
theorem EncodeFields.squeeze : EncodeFields.Statement .squeeze := packWord_fields _ _ _
theorem EncodeFields.permute : EncodeFields.Statement .permute := packWord_fields _ _ _
theorem EncodeFields.peek (index : Byte) : EncodeFields.Statement (.peek index) := packWord_fields _ _ _

end Sys2Proof.Laws
end

