-- ==== Sys2Proof/Tests/Slice0.lean ====
section
/-! SUPPORT. The model's own tests. Expected values are the spec's: 95_test_vectors.md (W, V, section 5 and 6 rows,
programs P1 to P5) and the examples of the command rules. After them, for each statement of
Certificates/Slice0/Obligations.lean that has hypotheses, a witness that meets them all together. -/

namespace Sys2Proof.Tests

open Sys2Proof.Machine

/-! ### Small states and readings -/

/-- A state in ABSORBING with zero lanes. -/
def absorbing (rate delim cursor : Byte) : State :=
  { State.reset with rate := rate, delim := delim, cursor := cursor, fsm := .absorbing }

/-- A state in SQUEEZING whose bytes are the ramp of V5. -/
def squeezing (rate cursor : Byte) : State :=
  { State.reset with
    lanes := lanesOfBytes fun k => BitVec.ofNat 8 k.val, rate := rate, cursor := cursor, fsm := .squeezing }

/-- A locked state. -/
def locked : State := { State.reset with err := true, errCode := .badRate }

/-- A state in which a response byte waits. -/
def waiting : State := { State.reset with busy := true, rspPending := some 0x5A, rspReady := false }

/-- The status word and the responses after an outcome. -/
def seen (o : Outcome) : Option (Word × List Byte) := (nextState o).map fun t => (statusWord t, t.responses)

/-! ### Decoding: words written out from R52 (95_test_vectors.md section 5) -/

theorem test_decode_nop : decode 0b0000_000000000000_00000000_00000000 = .instr .nop := by decide
theorem test_decode_init : decode 0b0001_000000000000_00000001_10001000 = .instr (.init 136 1) := by decide
theorem test_decode_absorb : decode 0b0010_000000000000_00000000_01100001 = .instr (.absorb 0x61) := by decide
theorem test_decode_finalize : decode 0b0011_000000000000_00000000_00000000 = .instr .finalize := by decide
theorem test_decode_squeeze : decode 0b0100_000000000000_00000000_00000000 = .instr .squeeze := by decide
theorem test_decode_permute : decode 0b0101_000000000000_00000000_00000000 = .instr .permute := by decide
theorem test_decode_peek : decode 0b0110_000000000000_00000000_11000111 = .instr (.peek 199) := by decide
theorem test_decode_init_delim_high : decode 0x10000688 = .instr (.init 136 6) := by decide
theorem test_decode_reserved_rsv : decode 0x1FFF0188 = .reserved := by decide
theorem test_decode_reserved_b : decode 0x20000141 = .reserved := by decide
theorem test_decode_reserved_finalize_b : decode 0x30008000 = .reserved := by decide
theorem test_decode_illegal : decode 0x7FFFFFFF = .illegal := by decide
theorem test_encode_init : encode (.init 168 0x1F) = 0x10001FA8 := by decide
theorem test_encode_peek : encode (.peek 199) = 0x600000C7 := by decide
theorem test_table_word : decodeTableWord 32 0x20000061 = some (.absorb 0x61) := by decide
theorem test_table_rows_disjoint :
    opcodeRows.Pairwise fun r q => (r.pattern ^^^ q.pattern) &&& r.mask &&& q.mask ≠ 0 := by decide

/-! ### WellFormed: what each check refuses (R61), and the legal ranges (R55, R56) -/

theorem test_init_rate_does_not_fit : (AsmLine.init 256 1).wellFormed = false := by decide
theorem test_init_delim_does_not_fit : (AsmLine.init 136 256).wellFormed = false := by decide
theorem test_absorb_does_not_fit : (AsmLine.absorb (.num 256)).wellFormed = false := by decide
theorem test_absorb_not_ascii : (AsmLine.absorb (.chr 'é')).wellFormed = false := by decide
theorem test_peek_does_not_fit : (AsmLine.peek 256).wellFormed = false := by decide
theorem test_absorbs_does_not_fit : (AsmLine.absorbs [.num 0, .num 300]).wellFormed = false := by decide
theorem test_hash_rate_does_not_fit : (AsmLine.hash 256 1 [] 32).wellFormed = false := by decide
theorem test_hash_delim_does_not_fit : (AsmLine.hash 136 256 [] 32).wellFormed = false := by decide
theorem test_hash_byte_does_not_fit : (AsmLine.hash 136 1 [.num 256] 32).wellFormed = false := by decide
theorem test_keccak_does_not_fit : (AsmLine.keccak .keccak256 [.num 256]).wellFormed = false := by decide
theorem test_init_out_of_range_is_well_formed : (AsmLine.init 201 1).wellFormed = true := by decide
theorem test_rate_zero_not_legal : (Instr.init 0 1).operandsLegal = false := by decide
theorem test_rate_201_not_legal : (Instr.init 201 1).operandsLegal = false := by decide
theorem test_index_200_not_legal : (Instr.peek 200).operandsLegal = false := by decide

/-! ### The assembler (R61, R62) -/

theorem test_assemble_comment :
    assembleText [' ', 'P', 'E', 'E', 'K', ' ', '0', 'x', 'C', '7', ' ', ';', 'x'] = some [.peek 199] := by decide
theorem test_assemble_character :
    assembleText ['A', 'B', 'S', 'O', 'R', 'B', ' ', '\'', 'a', '\''] = some [.absorb 0x61] := by decide
theorem test_assemble_refuses :
    assembleText ['I', 'N', 'I', 'T', ' ', '2', '5', '6', ',', '1'] = none := by decide
theorem test_assemble_absorbs :
    assembleText ['A', 'B', 'S', 'O', 'R', 'B', 'S', ' ', '1', ',', ' ', '2'] = some [.absorb 1, .absorb 2] := by
  decide
theorem test_assemble_hash :
    assembleText ['H', 'A', 'S', 'H', ' ', '8', ',', '1', ',', '7', ',', '2'] =
      some [.init 8 1, .absorb 7, .finalize, .squeeze, .squeeze] := by decide

/-! ### Hashers (45_host_interface.md R99 to R107) -/

theorem test_direct_session :
    (hasherSession (variantConfig .direct .keccak256) [[0x61], [], [0x62, 0x63]] 2).commands.map encode =
      [0x10000188, 0x20000061, 0x20000062, 0x20000063, 0x30000000, 0x40000000, 0x40000000] := by decide
theorem test_adaptive_construct :
    (Hasher.construct (variantConfig .adaptive .keccak512)).2.map encode = [0x10000148] := by decide
theorem test_commit_flushes_then_forwards :
    (Selector.commit (Selector.fresh (variantSponge .keccak224)) [1, 2] [3]).2 = [.absorb 1, .absorb 2, .absorb 3] := by
  decide
theorem test_committed_bypasses_buffer :
    Selector.update { sponge := variantSponge .keccak384, phase := .committed } [7] =
      ({ sponge := variantSponge .keccak384, phase := .committed }, [.absorb 7]) := by decide

/-! ### The permutation (V1, V3, V8) -/

/-- The lane file of V3: `S[0] = 1` and every other lane 0. -/
def oneBit : Lanes := zeroLanes.set 0 1

theorem test_theta_V3 :
    theta oneBit = #v[1, 1, 0, 0, 2, 0, 1, 0, 0, 2, 0, 1, 0, 0, 2, 0, 1, 0, 0, 2, 0, 1, 0, 0, 2] := by
  decide +kernel

theorem test_rho_V3 :
    rho (theta oneBit) =
      #v[1, 2, 0, 0, 0x10000000, 0, 0x100000000000, 0, 0, 0x200000, 0, 0x400, 0, 0, 0x10000000000, 0,
         0x200000000000, 0, 0, 0x200, 0, 4, 0, 0, 0x8000] := by
  decide +kernel

theorem test_pi_V3 :
    piStep (rho (theta oneBit)) =
      #v[1, 0x100000000000, 0, 0, 0x8000, 0, 0x200000, 0, 0x200000000000, 0, 2, 0, 0, 0x200, 0, 0x10000000, 0,
         0x400, 0, 0, 0, 0, 0x10000000000, 0, 4] := by
  decide +kernel

theorem test_round_V3 :
    keccakRound oneBit 0 =
      #v[0, 0x100000000000, 0x8000, 1, 0x100000008000, 0, 0x200000200000, 0, 0x200000000000, 0x200000, 2, 0x200, 0,
         0x202, 0, 0x10000400, 0, 0x400, 0x10000000, 0, 0x10000000000, 0, 0x10000000004, 0, 4] := by
  decide +kernel

theorem test_keccakF_V1 :
    keccakF zeroLanes =
      #v[0xF1258F7940E1DDE7, 0x84D5CCF933C0478A, 0xD598261EA65AA9EE, 0xBD1547306F80494D, 0x8B284E056253D057,
         0xFF97A42D7F8E6FD4, 0x90FEE5A0A44647C4, 0x8C5BDA0CD6192E76, 0xAD30A6F71B19059C, 0x30935AB7D08FFC64,
         0xEB5AA93F2317D635, 0xA9A6E6260D712103, 0x81A57C16DBCF555F, 0x43B831CD0347C826, 0x01F22F1A11A5569F,
         0x05E5635A21D9AE61, 0x64BEFEF28CC970F2, 0x613670957BC46611, 0xB87C5A554FD00ECB, 0x8C3EE88A1CCF32C8,
         0x940C7922AE3A2614, 0x1841F924A2C509E4, 0x16F53526E70465C2, 0x75F644E97F30A13B, 0xEAF1FF7B5CECA249] := by
  decide +kernel

/-- W1 and V8: the first lanes after INIT 136, 0x01 and FINALIZE are the Keccak-256 digest of the empty input. -/
theorem test_empty_keccak256_V8 :
    ((nextState (runCommands [.init 136 1, .finalize] State.reset)).map fun t =>
      [t.lanes[0], t.lanes[1], t.lanes[2], t.lanes[3], t.lanes[24]]) =
    some [0x3C23F7860146D2C5, 0xC003C7DCB27D7E92, 0x3B2782CA53B600E5, 0x70A4855D04D8FA7B, 0xA3FE1AF7779FAFD7] := by
  decide +kernel

/-! ### The commands -/

theorem test_nop_keeps_status : seen (exec .nop (absorbing 136 1 5)) = some (0x01880501, []) := by decide +kernel
theorem test_init_status : seen (exec (.init 136 1) State.reset) = some (0x01880001, []) := by decide +kernel
theorem test_init_zero_rate : seen (exec (.init 0 1) State.reset) = some (0x00000048, []) := by decide +kernel
theorem test_absorb_a :
    ((nextState (exec (.absorb 0x61) (absorbing 136 1 0))).map fun t => (t.lanes[0], t.cursor, statusWord t)) =
      some (0x61, 1, 0x01880101) := by decide +kernel
theorem test_absorb_idle : seen (exec (.absorb 0x41) State.reset) = some (0x00000038, []) := by decide +kernel
theorem test_absorb_byte_order :
    ((nextState (runCommands (updateCommands [0x11, 0x22, 0x33, 0x44, 0x55, 0x66, 0x77]) (absorbing 8 1 0))).map
      fun t => t.lanes[0]) = some 0x0077665544332211 := by decide +kernel
theorem test_finalize_twice :
    seen (exec .finalize { squeezing 136 0 with delim := 1 }) = some (0x0188003A, []) := by decide +kernel
theorem test_finalize_status : seen (exec .finalize (absorbing 136 1 3)) = some (0x01880002, []) := by decide +kernel
theorem test_squeeze_reads_at_cursor :
    ((nextState (exec .squeeze (squeezing 136 9))).map fun t => (t.responses, t.cursor)) = some ([9], 10) := by
  decide +kernel
theorem test_squeeze_idle : seen (exec .squeeze State.reset) = some (0x00000038, [0]) := by decide +kernel
theorem test_permute_keeps_registers :
    seen (exec .permute (squeezing 136 9)) = some (0x00880902, []) := by decide +kernel
theorem test_peek_last : seen (exec (.peek 199) (squeezing 8 0)) = some (0x00080002, [199]) := by decide +kernel
theorem test_peek_200 : seen (exec (.peek 200) State.reset) = some (0x00000058, [0]) := by decide +kernel

/-! ### Errors, the lock, the ports (95_test_vectors.md section 6) -/

theorem test_illegal_word : seen (acceptWord 0x7FFFFFFF State.reset) = some (0x00000018, []) := by decide +kernel
theorem test_reserved_word : seen (acceptWord 0x20000141 State.reset) = some (0x00000028, []) := by decide +kernel
theorem test_second_error_not_recorded :
    seen (andThen (acceptWord 0x70000000 State.reset) (acceptWord 0x30000000)) = some (0x00000018, []) := by
  decide +kernel
theorem test_locked_squeeze_responds : seen (exec .squeeze locked) = some (0x00000048, [0]) := by decide +kernel
theorem test_response_waits :
    (nextState (exec (.peek 7) { squeezing 8 0 with rspReady := false })).map (fun t => (t.rspPending, t.busy)) =
      some (some 7, true) := by decide +kernel
theorem test_response_taken :
    (nextState (step { waiting with host := [.rspReady true] })).map (fun t => (t.responses, t.busy)) =
      some ([0x5A], false) := by decide +kernel
theorem test_reset_unlocks : seen (step { locked with host := [.reset] }) = some (0, []) := by decide +kernel
theorem test_withFetchWord_runs :
    seen (step (State.reset.withFetchWord 32 0x100001C8)) = some (0x01C80001, []) := by decide +kernel
theorem test_edge_accepts :
    (match edge ⟨false, true, 0x20000061, true⟩ Chip.reset with
      | .next d => d.busy
      | .fault _ => false
      | .refused _ => false) = true := by decide +kernel

/-! ### Witnesses: states and operands that meet the hypotheses of the statements, clause by clause -/

theorem absorbing_fsmInv_last : FsmInv (absorbing 200 0x80 199) := ⟨by decide, by decide, by decide⟩
theorem absorbing_fsmInv_first : FsmInv (absorbing 200 1 0) := ⟨by decide, by decide, by decide⟩
theorem squeezing_fsmInv_used : FsmInv (squeezing 200 200) := ⟨by decide, by decide, by decide⟩
theorem squeezing_fsmInv_first : FsmInv (squeezing 1 0) := ⟨by decide, by decide, by decide⟩

theorem witness_NopChangesNothing :
    opField 0x0FFFFFFF = 0 ∧ (0x0FFFFFFF : Word) ≠ 0 ∧ State.reset.err = false := by decide

theorem witness_InitStartsFromZeroState :
    (0x10000001 : Word) &&& 0xFFFF0000 = 0x10000000 ∧ locked.err = true ∧ State.reset.err = false ∧
    ((0 : Byte) = 0 ∨ 200 < (0 : Byte).toNat) ∧ ((201 : Byte) = 0 ∨ 200 < (201 : Byte).toNat) ∧
    1 ≤ (1 : Byte).toNat ∧ (1 : Byte).toNat ≤ 200 ∧ 1 ≤ (200 : Byte).toNat ∧ (200 : Byte).toNat ≤ 200 := by decide

theorem witness_AbsorbXorsOneByte :
    ((0x200000FF : Word) &&& 0xFFFFFF00 = 0x20000000) ∧
    (opField 0x20000100 = 2 ∧ (0x20000100 : Word).extractLsb' 8 20 ≠ 0#20 ∧ State.reset.err = false) ∧
    locked.err = true ∧ (State.reset.err = false ∧ State.reset.fsm ≠ .absorbing) ∧
    ((absorbing 200 1 0).err = false ∧ (absorbing 200 1 0).fsm = .absorbing ∧ FsmInv (absorbing 200 1 0) ∧
      (absorbing 200 1 0).cursor + 1 ≠ (absorbing 200 1 0).rate) ∧
    ((absorbing 200 0x80 199).err = false ∧ (absorbing 200 0x80 199).fsm = .absorbing ∧
      FsmInv (absorbing 200 0x80 199) ∧ (absorbing 200 0x80 199).cursor + 1 = (absorbing 200 0x80 199).rate) :=
  ⟨by decide, by decide, rfl, by decide, ⟨rfl, rfl, absorbing_fsmInv_first, by decide⟩,
    ⟨rfl, rfl, absorbing_fsmInv_last, by decide⟩⟩

theorem witness_FinalizePadsAndPermutes :
    (opField 0x30000001 = 3 ∧ (0x30000001 : Word).extractLsb' 0 28 ≠ 0#28 ∧ State.reset.err = false) ∧
    locked.err = true ∧ (State.reset.err = false ∧ State.reset.fsm ≠ .absorbing) ∧
    ((absorbing 200 1 0).err = false ∧ (absorbing 200 1 0).fsm = .absorbing ∧ FsmInv (absorbing 200 1 0)) :=
  ⟨by decide, rfl, by decide, ⟨rfl, rfl, absorbing_fsmInv_first⟩⟩

theorem witness_SqueezeEmitsOneByte :
    (opField 0x40000001 = 4 ∧ (0x40000001 : Word).extractLsb' 0 28 ≠ 0#28 ∧ State.reset.err = false) ∧
    locked.err = true ∧ (State.reset.err = false ∧ State.reset.fsm ≠ .squeezing) ∧
    ((squeezing 1 0).err = false ∧ (squeezing 1 0).fsm = .squeezing ∧ FsmInv (squeezing 1 0) ∧
      (squeezing 1 0).cursor ≠ (squeezing 1 0).rate) ∧
    ((squeezing 200 200).err = false ∧ (squeezing 200 200).fsm = .squeezing ∧ FsmInv (squeezing 200 200) ∧
      (squeezing 200 200).cursor = (squeezing 200 200).rate) :=
  ⟨by decide, rfl, by decide, ⟨rfl, rfl, squeezing_fsmInv_first, by decide⟩,
    ⟨rfl, rfl, squeezing_fsmInv_used, rfl⟩⟩

theorem witness_PermuteChangesLanesOnly :
    (opField 0x50000001 = 5 ∧ (0x50000001 : Word).extractLsb' 0 28 ≠ 0#28 ∧ State.reset.err = false) ∧
    locked.err = true ∧ State.reset.err = false := by decide

theorem witness_PeekReadsAnyByte :
    (0x600000C7 : Word) &&& 0xFFFFFF00 = 0x60000000 ∧
    (opField 0x60000100 = 6 ∧ (0x60000100 : Word).extractLsb' 8 20 ≠ 0#20) ∧ locked.err = true ∧
    State.reset.err = false ∧ 199 < (200 : Byte).toNat ∧ (199 : Byte).toNat = (199 : Fin 200).val ∧
    (0 : Byte).toNat = (0 : Fin 200).val := by decide

theorem witness_FinalizeCancellingPadding :
    (absorbing 200 0x80 199).err = false ∧ (absorbing 200 0x80 199).fsm = .absorbing ∧
    FsmInv (absorbing 200 0x80 199) ∧ (absorbing 200 0x80 199).cursor + 1 = (absorbing 200 0x80 199).rate ∧
    (absorbing 200 0x80 199).delim = 0x80 :=
  ⟨rfl, rfl, absorbing_fsmInv_last, by decide, rfl⟩

/-- Each command answers a next state somewhere (the hypothesis of the frame, of PermutationsPerCommand and others). -/
theorem witness_CommandsKeepTheirFrame :
    Completes (exec .nop State.reset) ∧ Completes (exec (.init 200 1) State.reset) ∧
    Completes (exec (.absorb 7) (absorbing 200 1 0)) ∧ Completes (exec .finalize (absorbing 200 1 0)) ∧
    Completes (exec .squeeze (squeezing 200 199)) ∧ Completes (exec .permute State.reset) ∧
    Completes (exec (.peek 199) State.reset) :=
  ⟨⟨_, rfl⟩, ⟨_, rfl⟩, ⟨_, rfl⟩, ⟨_, rfl⟩, ⟨_, rfl⟩, ⟨_, rfl⟩, ⟨_, rfl⟩⟩

theorem witness_DecoderFollowsMatchAndMask :
    7 ≤ ((0x70000000 : Word) >>> 28).toNat ∧ ((0x6FFFFFFF : Word) >>> 28).toNat < 7 ∧
    opcodeRows.all (fun r => !r.covers 0x6FFFFFFF) = true ∧
    decode 0x1000FFFF = .instr (.init 255 255) ∧ decode 0x200000FF = .instr (.absorb 255) ∧
    decode 0x600000FF = .instr (.peek 255) ∧ State.reset.err = false ∧ decode 0x70000000 = .illegal ∧
    decode 0x00000001 = .reserved := by decide

theorem witness_AcceptedWordIsItsEncoding : decode 0x1000FFFF = .instr (.init 255 255) := by decide

theorem witness_IllegalOpcodeRaises :
    (7 ≤ (opField 0x70000000).toNat ∧ 7 ≤ (opField 0xFFFFFFFF).toNat) ∧ State.reset.err = false := by decide

theorem witness_ReservedFieldRaises :
    ((opField 0x6FFF0000).toNat < 7 ∧ (0x6FFF0000 : Word).extractLsb' 16 12 ≠ 0#12) ∧
    ((opField 0x20000141).toNat < 7 ∧ opField 0x20000141 ≠ 1 ∧ (0x20000141 : Word).extractLsb' 8 8 ≠ 0#8) ∧
    ((opField 0x50000001).toNat < 7 ∧ opField 0x50000001 = 5 ∧ (0x50000001 : Word).extractLsb' 0 8 ≠ 0#8) ∧
    State.reset.err = false := by decide

theorem witness_ReservedSqueezeAndPeekRespond :
    (decode 0x40000001 = .reserved ∧ opField 0x40000001 = 4) ∧
    (decode 0x60000100 = .reserved ∧ opField 0x60000100 = 6) ∧
    (decode 0x50000001 = .reserved ∧ opField 0x50000001 ≠ 4 ∧ opField 0x50000001 ≠ 6) ∧
    State.reset.err = false ∧ locked.err = true ∧ decode 0x70000000 = .illegal := by decide

theorem reset_blockInv : BlockInv State.reset :=
  ⟨⟨rfl, rfl, rfl⟩, ⟨fun _ => rfl, fun _ => rfl⟩, ⟨rfl, fun h => by cases h⟩⟩

theorem witness_FirstErrorIsRecorded : BlockInv State.reset ∧ State.reset.err = false := ⟨reset_blockInv, rfl⟩

theorem witness_ErroredCommandHasNoOtherEffect :
    (∃ t, State.reset.err = false ∧ exec (.init 0 1) State.reset = .next t ∧ t.err = true) ∧
    (∃ t, State.reset.err = false ∧ exec (.peek 200) State.reset = .next t ∧ t.err = true) ∧
    ∃ t, State.reset.err = false ∧ acceptWord 0x70000000 State.reset = .next t ∧ t.err = true :=
  ⟨⟨_, rfl, rfl, rfl⟩, ⟨_, rfl, rfl, rfl⟩, ⟨_, rfl, rfl, rfl⟩⟩

theorem witness_LockedBlockDiscards :
    locked.err = true ∧
    ∃ t, step { locked with host := [.command 0x10000188] } = .next t ∧
      ∀ rest, ({ locked with host := [.command 0x10000188] } : State).host ≠ .reset :: rest :=
  ⟨rfl, _, rfl, by simp⟩

theorem witness_FirstErrorIsKept :
    locked.err = true ∧ (∀ e ∈ ({ locked with host := [.command 0x70000000] } : State).host, e ≠ .reset) ∧
    ∃ t, Sys2Proof.core.run 1 ({ locked with host := [.command 0x70000000] } : State) = .next t :=
  ⟨rfl, by simp, _, rfl⟩

theorem witness_FsmFollowsTable :
    (∃ t, (absorbing 200 1 0).err = false ∧ exec .finalize (absorbing 200 1 0) = .next t) ∧
    ∃ t, State.reset.err = false ∧ exec .squeeze State.reset = .next t :=
  ⟨⟨_, rfl, rfl⟩, ⟨_, rfl, rfl⟩⟩

theorem witness_StepKeepsInvariant :
    ∃ t, BlockInv State.reset ∧ step (State.reset.withFetchWord 32 0x10000188) = .next t ∧
      BlockInv (State.reset.withFetchWord 32 0x10000188) :=
  ⟨_, reset_blockInv, rfl, ⟨rfl, rfl, rfl⟩, ⟨fun _ => rfl, fun _ => rfl⟩, ⟨rfl, fun h => by cases h⟩⟩

theorem waiting_blockInv : BlockInv waiting :=
  ⟨⟨rfl, rfl, rfl⟩, ⟨fun _ => rfl, fun _ => rfl⟩, ⟨rfl, fun _ => rfl⟩⟩

theorem witness_StepCompletes :
    BlockInv waiting ∧ (waiting.busy = true → ∀ w rest, waiting.host ≠ .commandWithdrawn w :: rest) :=
  ⟨waiting_blockInv, fun _ _ _ h => by simp [waiting, State.reset] at h⟩

theorem witness_RateIsWrittenOnlyByInitAndReset :
    Completes (step { State.reset with host := [.command 0x100001C8] }) ∧
    Completes (step { State.reset with host := [.reset] }) :=
  ⟨⟨_, rfl⟩, ⟨_, rfl⟩⟩

theorem witness_DelimIsReadOnlyByFinalize :
    Instr.squeeze ≠ .finalize ∧ ∀ rate delim, Instr.squeeze ≠ .init rate delim := ⟨by decide, by simp⟩

theorem witness_CapacityIsUntouched :
    ∃ t, FsmInv (absorbing 8 1 0) ∧ exec (.absorb 7) (absorbing 8 1 0) = .next t ∧
      (∀ r d, Instr.absorb 7 ≠ .init r d) ∧ permutations (.absorb 7) (absorbing 8 1 0) = 0 ∧
      (absorbing 8 1 0).rate.toNat ≤ (8 : Fin 200).val :=
  ⟨_, ⟨by decide, by decide, by decide⟩, rfl, by simp, by decide, by decide⟩

theorem witness_PermutationsPerCommand :
    (∃ t, FsmInv (absorbing 200 0x80 199) ∧ exec (.absorb 7) (absorbing 200 0x80 199) = .next t) ∧
    ∃ t, FsmInv (squeezing 200 200) ∧ exec .squeeze (squeezing 200 200) = .next t :=
  ⟨⟨_, absorbing_fsmInv_last, rfl⟩, ⟨_, squeezing_fsmInv_used, rfl⟩⟩

theorem witness_StepRunsDecodedCommand :
    (({ State.reset with host := [.command 0x20000061] } : State).busy = false ∧
      decode 0x20000061 = .instr (.absorb 0x61)) ∧
    (({ State.reset with host := [.commandWithdrawn 0x70000000] } : State).host = [.commandWithdrawn 0x70000000] ∧
      decode 0x70000000 = .illegal) ∧
    decodeTableWord 32 0x600000C7 = some (.peek 199) := by decide

/-- A chip with a command in progress. -/
def working (n : Nat) : Chip := { Chip.reset with work := some (0x50000000, n) }

theorem witness_OfferedWordIsHeldWhileBusy :
    (brokenHold ⟨false, true, 0, true⟩ Chip.reset = false ∧ Chip.reset.cmdReady false = true) ∧
    (({ waiting with host := [.command 0] } : State).host = [.command 0] ∧
      ({ waiting with host := [.command 0] } : State).busy = true) ∧
    (Chip.cmdReady true Chip.reset = false ∧ ∃ d, edge ⟨true, true, 0, true⟩ Chip.reset = .next d) ∧
    (∃ d, Chip.cmdReady false { Chip.reset with block := waiting } = false ∧
      edge ⟨false, true, 0, false⟩ { Chip.reset with block := waiting } = .next d) ∧
    (∃ d, (working 0).cmdReady false = false ∧ edge ⟨false, true, 0, true⟩ (working 0) = .next d) ∧
    ∃ d, (working 1).cmdReady false = false ∧ edge ⟨false, true, 0, true⟩ (working 1) = .next d :=
  ⟨by decide, ⟨rfl, rfl⟩, ⟨rfl, _, rfl⟩, ⟨_, rfl, rfl⟩, ⟨_, rfl, rfl⟩, ⟨_, rfl, rfl⟩⟩

theorem witness_StateHoldsWithoutCommand :
    State.reset.host = [] ∧
    ∃ t, step { State.reset with host := [.readStatus] } = .next t ∧
      (∀ w rest, ({ State.reset with host := [.readStatus] } : State).host ≠ .command w :: rest ∧
        ({ State.reset with host := [.readStatus] } : State).host ≠ .commandWithdrawn w :: rest) ∧
      ∀ rest, ({ State.reset with host := [.readStatus] } : State).host ≠ .reset :: rest :=
  ⟨rfl, _, rfl, by simp, by simp⟩

theorem witness_ResetEdgeGivesResetValues : ({ locked with host := [.reset] } : State).host = [.reset] := rfl

theorem witness_ResetAbandonsCommandInProgress :
    brokenHold ⟨true, false, 0, true⟩ { Chip.reset with work := some (0x50000000, 3) } = false := by decide

theorem witness_StatusWordShowsRegisters :
    State.reset.busy = false ∧ waiting.busy = true ∧
    ({ State.reset with host := [.readStatus] } : State).host = [.readStatus] := by decide

theorem witness_ResponseWaitsForTheHost :
    (waiting.err = false ∧ waiting.rspReady = false ∧ (199 : Byte).toNat = (199 : Fin 200).val) ∧
    (({ waiting with host := [.rspReady true] } : State).host = [.rspReady true] ∧
      ({ waiting with host := [.rspReady true] } : State).rspPending = some 0x5A) ∧
    (({ waiting with host := [.rspReady false] } : State).host = [.rspReady false] ∧
      ({ waiting with host := [.rspReady false] } : State).rspPending = some 0x5A) := by decide

theorem witness_OneResponsePerSqueezeOrPeek :
    (∃ t, State.reset.busy = false ∧ State.reset.rspPending = none ∧ exec .squeeze State.reset = .next t ∧
      responds .squeeze = true) ∧
    ∃ t, exec (.absorb 1) State.reset = .next t ∧ responds (.absorb 1) = false :=
  ⟨⟨_, rfl, rfl, rfl, rfl⟩, ⟨_, rfl, rfl⟩⟩

theorem witness_WithdrawnWordIsRefused :
    (({ waiting with host := [.commandWithdrawn 0] } : State).busy = true) ∧
    ({ Chip.reset with offered := some 5 } : Chip).offered = some 5 ∧
    ((⟨false, false, 5, true⟩ : Pins).cmdValid = false) ∧ ((⟨false, true, 6, true⟩ : Pins).cmdData ≠ 5) := by decide

/-- A chip that has been holding an offered word, ready for it now. -/
def holding (w : Word) : Chip := { Chip.reset with offered := some w }

/-- The pins of a host that offers and holds the word 5. -/
def offersFive (level : Bool) : Pins := { rst := false, cmdValid := true, cmdData := 5, rspReady := level }

theorem keepsHold_five (level : Bool) :
    ∀ n held, held = none ∨ held = some 5 → keepsHold held (List.replicate n (offersFive level)) = true
  | 0, _, _ => rfl
  | n + 1, held, h => by
    have hd : dropsWord (offersFive level) held = false := by rcases h with rfl | rfl <;> rfl
    simp only [List.replicate_succ, keepsHold, hd]
    exact keepsHold_five level n _ (.inr rfl)

theorem witness_ClockedBlockRefinesStep :
    ((holding 0x60000000).work = none ∧ (holding 0x60000000).offered = some 0x60000000 ∧ Chip.reset.offered = none ∧
      (holding 0x60000000).block.busy = false ∧ BlockInv (holding 0x60000000).block ∧
      (∀ p ∈ List.replicate (latency 0x60000000 (holding 0x60000000).block) (offersFive false), p.rst = false) ∧
      keepsHold none (List.replicate (latency 0x60000000 (holding 0x60000000).block) (offersFive false)) = true ∧
      (List.replicate (latency 0x60000000 (holding 0x60000000).block) (offersFive false)).length =
        latency 0x60000000 (holding 0x60000000).block) ∧
    (wordPermutations 0x60000000 Chip.reset.block = 0 ∧ wordPermutations 0x50000000 Chip.reset.block ≠ 0) ∧
    ((nextState (acceptWord 0x10000188 { State.reset with rspReady := false })).map (·.busy) = some false ∧
      ∀ q ∈ [(⟨false, false, 0, true⟩ : Pins)], q.rst = false ∧ q.cmdValid = false) ∧
    ((nextState (acceptWord 0x60000000 { State.reset with rspReady := false })).map (·.busy) = some true ∧
      (∀ q ∈ [offersFive false], q.rst = false ∧ q.rspReady = false) ∧
      keepsHold (some 5) ([offersFive false] ++ [offersFive true]) = true) :=
  ⟨⟨rfl, rfl, rfl, rfl, reset_blockInv, fun p hp => by rw [List.eq_of_mem_replicate hp]; rfl,
      keepsHold_five _ _ _ (.inl rfl), by simp⟩, by decide, by decide, by decide⟩

theorem witness_RotationMovesBits : 63 < 64 ∧ 0 < 64 := by decide

theorem witness_OfferedCommandsComposeInOrder :
    ({ State.reset with host := offers [.init 200 1, .peek 0] } : State).host = offers [.init 200 1, .peek 0] ∧
    PortIdle { State.reset with host := offers [.init 200 1, .peek 0] } := ⟨rfl, rfl, rfl, rfl⟩

theorem witness_SlowHostSeesTheSameComposition :
    ({ State.reset with host := slowHost [.init 200 1, .peek 0], rspReady := false } : State).host =
      slowHost [.init 200 1, .peek 0] ∧
    ({ State.reset with host := slowHost [.init 200 1, .peek 0], rspReady := false } : State).busy = false ∧
    ({ State.reset with host := slowHost [.init 200 1, .peek 0], rspReady := false } : State).rspPending = none ∧
    ({ State.reset with host := slowHost [.init 200 1, .peek 0], rspReady := false } : State).rspReady = false :=
  ⟨rfl, rfl, rfl, rfl⟩

theorem witness_AbsorbSequenceFillsBlocks :
    State.reset.err = false ∧ 1 ≤ (1 : Byte).toNat ∧ (200 : Byte).toNat ≤ 200 := by decide

theorem witness_SqueezeSequenceOutputsBlocks :
    (squeezing 1 0).err = false ∧ (squeezing 1 0).fsm = .squeezing ∧ FsmInv (squeezing 1 0) ∧
    (squeezing 1 0).cursor = 0 ∧ PortIdle (squeezing 1 0) := ⟨rfl, rfl, squeezing_fsmInv_first, rfl, rfl, rfl, rfl⟩

theorem witness_SqueezeSequenceResumesAtCursor :
    (squeezing 200 200).err = false ∧ (squeezing 200 200).fsm = .squeezing ∧ FsmInv (squeezing 200 200) ∧
    PortIdle (squeezing 200 200) := ⟨rfl, rfl, squeezing_fsmInv_used, rfl, rfl, rfl⟩

theorem witness_BlockComputesTheSponge :
    State.reset.err = false ∧ PortIdle State.reset ∧ 1 ≤ (200 : Byte).toNat ∧ (200 : Byte).toNat ≤ 200 :=
  ⟨rfl, ⟨rfl, rfl, rfl⟩, by decide, by decide⟩

theorem witness_LongerOutputExtendsShorter :
    (3 ≤ 5) ∧ (squeezing 200 200).err = false ∧ (squeezing 200 200).fsm = .squeezing ∧ FsmInv (squeezing 200 200) ∧
    PortIdle (squeezing 200 200) := ⟨by decide, rfl, rfl, squeezing_fsmInv_used, rfl, rfl, rfl⟩

theorem witness_LegalSequencesRaiseNoError :
    State.reset.err = false ∧ PortIdle State.reset ∧
    ∀ c ∈ [(⟨136, 1, [0x61], some 32⟩ : Computation)], 1 ≤ c.rate.toNat ∧ c.rate.toNat ≤ 200 :=
  ⟨rfl, ⟨rfl, rfl, rfl⟩, by simp⟩

theorem witness_SelectorForwardsAllBytesInOrder :
    (Selector.mk (variantSponge .keccak256) .committed).isCommitted = true := rfl

theorem witness_AdaptiveStrategyTakesOnePath :
    ([[]] : List (List Byte)).flatten.length ≤ Config.threshold ∧
    Config.threshold < [List.replicate (Config.threshold + 1) (0 : Byte)].flatten.length ∧
    State.reset.err = false ∧ 1 ≤ (variantSponge .keccak256).rate.toNat ∧
    (variantSponge .keccak256).rate.toNat ≤ 200 :=
  ⟨by simp, by simp, rfl, by decide, by decide⟩

end Sys2Proof.Tests
end

section
/-! PROOFS. The step on an offered word, and the rotation of a lane (00_scope.md R8, R10; 30_encoding.md R49, R60). -/

namespace Sys2Proof.Machine

/-! ### The rotation -/

/-- For the amounts R8 allows, the model's rotation is the library's. -/
theorem rotl64_eq_rotateLeft (v : Lane) {n : Nat} (hn : n < 64) : rotl64 v n = v.rotateLeft n := by
  rw [rotl64, BitVec.rotateLeft_def, Nat.mod_eq_of_lt hn]

/-- Bit j of a rotated lane: bit j - n of the lane, the n low bits coming from the top. -/
theorem getLsbD_rotl64 (v : Lane) {n j : Nat} (hn : n < 64) (hj : j < 64) :
    (rotl64 v n).getLsbD j = if j < n then v.getLsbD (64 - n + j) else v.getLsbD (j - n) := by
  rw [rotl64_eq_rotateLeft v hn, BitVec.getLsbD_rotateLeft, Nat.mod_eq_of_lt hn]
  by_cases h : j < n <;> simp [h, hj]

/-- Settles O41: bit i either stays below 64 or wraps past the top, and each case is one branch of `getLsbD_rotl64`. -/
theorem rotationMovesBits : Obligations.RotationMovesBits := by
  intro v n i hn hi
  rw [getLsbD_rotl64 v hn (Nat.mod_lt _ (by decide))]
  by_cases hwrap : i + n < 64
  · have hmod : (i + n) % 64 = i + n := Nat.mod_eq_of_lt hwrap
    rw [hmod, if_neg (by omega), Nat.add_sub_cancel]
  · have hmod : (i + n) % 64 = i + n - 64 := by omega
    rw [hmod, if_pos (by omega), show 64 - n + (i + n - 64) = i by omega]

/-! ### The step on an offered word -/

/-- A word the decoder reads as a command runs that command (R60). -/
theorem acceptWord_of_decode {w : Word} {i : Instr} (h : decode w = .instr i) (s : State) :
    acceptWord w s = exec i s := by
  simp [acceptWord, h]

/-- A block that is not busy accepts the word offered first, held or for one edge only (R49). -/
theorem step_offered {s : State} {w : Word} {rest : List HostEvent}
    (hoffer : s.host = .command w :: rest ∨ s.host = .commandWithdrawn w :: rest) (hbusy : s.busy = false) :
    step s = acceptWord w { s with host := rest } := by
  rcases hoffer with hhost | hhost <;> simp [step, hhost, serveEvent, cmdReady, hbusy]

/-- The next step accepts the word put first in the host's list (R49). -/
theorem step_offerFirst (w : Word) (s : State) :
    step (s.offerFirst w) = acceptWord w { s with busy := false, rspPending := none } :=
  step_offered (.inl rfl) rfl

/-- A table word is read as a command exactly when the decoder reads its bits as that command (R60). -/
theorem decodeTableWord_eq_some {nbits w : Nat} {i : Instr} :
    decodeTableWord nbits w = some i ↔ decode (tableWord nbits w) = .instr i := by
  unfold decodeTableWord
  cases decode (tableWord nbits w) <;> simp

/-- Settles O29: `step_offered` accepts the word, and `acceptWord_of_decode` runs what it decodes to. -/
theorem stepRunsDecodedCommand : Obligations.StepRunsDecodedCommand := by
  refine ⟨fun s w rest => step_offered, fun s w rest i hoffer hbusy hdec => ?_, fun s w i htable => ?_⟩
  · rw [step_offered hoffer hbusy, acceptWord_of_decode hdec]
  · rw [State.withFetchWord, step_offerFirst, acceptWord_of_decode (decodeTableWord_eq_some.mp htable)]

end Sys2Proof.Machine
end

section
/-! PROOFS. What a command can do when it answers a next state, as one inversion, and the frame of every command
(10_state.md R31; 60_exceptions.md R113, R115). -/

namespace Sys2Proof.Machine

/-! ### The advance of ABSORB writes lanes, cursor and the hidden counter only (R84) -/

theorem advanceAbsorb_full {s : State} (h : s.cursor + 1 = s.rate) :
    s.advanceAbsorb = (s.setCursor (s.cursor + 1)).permute.setCursor 0 := if_pos h

theorem advanceAbsorb_room {s : State} (h : s.cursor + 1 ≠ s.rate) :
    s.advanceAbsorb = s.setCursor (s.cursor + 1) := if_neg h

/-- An advance is the cursor's step, or at a full block the permutation too. -/
theorem advanceAbsorb_cases (s : State) :
    s.advanceAbsorb = s.setCursor (s.cursor + 1) ∨
      s.advanceAbsorb = (s.setCursor (s.cursor + 1)).permute.setCursor 0 := by
  by_cases h : s.cursor + 1 = s.rate
  · exact .inr (advanceAbsorb_full h)
  · exact .inl (advanceAbsorb_room h)

@[simp] theorem State.advanceAbsorb_rate (s : State) : s.advanceAbsorb.rate = s.rate := by
  rcases advanceAbsorb_cases s with h | h <;> simp [h]
@[simp] theorem State.advanceAbsorb_delim (s : State) : s.advanceAbsorb.delim = s.delim := by
  rcases advanceAbsorb_cases s with h | h <;> simp [h]
@[simp] theorem State.advanceAbsorb_fsm (s : State) : s.advanceAbsorb.fsm = s.fsm := by
  rcases advanceAbsorb_cases s with h | h <;> simp [h]
@[simp] theorem State.advanceAbsorb_err (s : State) : s.advanceAbsorb.err = s.err := by
  rcases advanceAbsorb_cases s with h | h <;> simp [h]
@[simp] theorem State.advanceAbsorb_errCode (s : State) : s.advanceAbsorb.errCode = s.errCode := by
  rcases advanceAbsorb_cases s with h | h <;> simp [h]
@[simp] theorem State.advanceAbsorb_busy (s : State) : s.advanceAbsorb.busy = s.busy := by
  rcases advanceAbsorb_cases s with h | h <;> simp [h]
@[simp] theorem State.advanceAbsorb_rspPending (s : State) : s.advanceAbsorb.rspPending = s.rspPending := by
  rcases advanceAbsorb_cases s with h | h <;> simp [h]
@[simp] theorem State.advanceAbsorb_rspReady (s : State) : s.advanceAbsorb.rspReady = s.rspReady := by
  rcases advanceAbsorb_cases s with h | h <;> simp [h]
@[simp] theorem State.advanceAbsorb_host (s : State) : s.advanceAbsorb.host = s.host := by
  rcases advanceAbsorb_cases s with h | h <;> simp [h]
@[simp] theorem State.advanceAbsorb_responses (s : State) : s.advanceAbsorb.responses = s.responses := by
  rcases advanceAbsorb_cases s with h | h <;> simp [h]
@[simp] theorem State.advanceAbsorb_statusReads (s : State) : s.advanceAbsorb.statusReads = s.statusReads := by
  rcases advanceAbsorb_cases s with h | h <;> simp [h]

/-! ### The start of SQUEEZE writes lanes, cursor and the hidden counter only (R88) -/

theorem startBlock_used {s : State} (h : s.cursor = s.rate) : s.startBlock = s.permute.setCursor 0 := if_pos h

theorem startBlock_unused {s : State} (h : s.cursor ≠ s.rate) : s.startBlock = s := if_neg h

/-- A start of SQUEEZE does nothing, or at a used-up block permutes and clears the cursor. -/
theorem startBlock_cases (s : State) : s.startBlock = s ∨ s.startBlock = s.permute.setCursor 0 := by
  by_cases h : s.cursor = s.rate
  · exact .inr (startBlock_used h)
  · exact .inl (startBlock_unused h)

@[simp] theorem State.startBlock_rate (s : State) : s.startBlock.rate = s.rate := by
  rcases startBlock_cases s with h | h <;> simp [h]
@[simp] theorem State.startBlock_delim (s : State) : s.startBlock.delim = s.delim := by
  rcases startBlock_cases s with h | h <;> simp [h]
@[simp] theorem State.startBlock_fsm (s : State) : s.startBlock.fsm = s.fsm := by
  rcases startBlock_cases s with h | h <;> simp [h]
@[simp] theorem State.startBlock_err (s : State) : s.startBlock.err = s.err := by
  rcases startBlock_cases s with h | h <;> simp [h]
@[simp] theorem State.startBlock_errCode (s : State) : s.startBlock.errCode = s.errCode := by
  rcases startBlock_cases s with h | h <;> simp [h]
@[simp] theorem State.startBlock_rspReady (s : State) : s.startBlock.rspReady = s.rspReady := by
  rcases startBlock_cases s with h | h <;> simp [h]
@[simp] theorem State.startBlock_host (s : State) : s.startBlock.host = s.host := by
  rcases startBlock_cases s with h | h <;> simp [h]
@[simp] theorem State.startBlock_statusReads (s : State) : s.startBlock.statusReads = s.statusReads := by
  rcases startBlock_cases s with h | h <;> simp [h]

/-! ### What a command can do -/

/-- `Effect s i t`: t is what command i leaves of s when the lock does not discard it and it raises no error. -/
inductive Effect (s : State) : Instr → State → Prop where
  | nop : Effect s .nop s
  | init {rate delim : Byte} (legal : rateLegal rate = true) : Effect s (.init rate delim) (s.configure rate delim)
  | absorb {data : Byte} (hfsm : s.fsm = .absorbing) (hcursor : s.cursor.toNat < 200) :
      Effect s (.absorb data) (s.setLanes (xorStateByte s.lanes ⟨s.cursor.toNat, hcursor⟩ data)).advanceAbsorb
  | finalize (hfsm : s.fsm = .absorbing) (hcursor : s.cursor.toNat < 200) (hrate : (s.rate - 1).toNat < 200) :
      Effect s .finalize (((s.setLanes (xorStateByte (xorStateByte s.lanes ⟨s.cursor.toNat, hcursor⟩ s.delim)
        ⟨(s.rate - 1).toNat, hrate⟩ 0x80)).permute.setCursor 0).setFsm .squeezing)
  | squeeze (hfsm : s.fsm = .squeezing) (hcursor : s.startBlock.cursor.toNat < 200) :
      Effect s .squeeze ((s.startBlock.emit (stateByte s.startBlock.lanes
        ⟨s.startBlock.cursor.toNat, hcursor⟩)).setCursor (s.startBlock.cursor + 1))
  | permute : Effect s .permute s.permute
  | peek {index : Byte} (hindex : index.toNat < 200) :
      Effect s (.peek index) (s.emit (stateByte s.lanes ⟨index.toNat, hindex⟩))

/-- A command that answers a next state is discarded by the lock (R115), raises an error and does nothing else (R113,
R117), or has its effect. -/
theorem exec_cases {i : Instr} {s t : State} (h : exec i s = .next t) :
    (s.err = true ∧ t = s.emitZeroIf (responds i)) ∨
    (s.err = false ∧ ∃ code, code ≠ .none ∧ t = (s.setError code).emitZeroIf (responds i)) ∨
    (s.err = false ∧ Effect s i t) := by
  cases i with
  | nop =>
    obtain rfl := execNop_cases h
    cases he : t.err
    · exact .inr (.inr ⟨rfl, .nop⟩)
    · exact .inl ⟨rfl, rfl⟩
  | init rate delim =>
    obtain ⟨he, rfl⟩ | ⟨he, legal, rfl⟩ | ⟨he, -, rfl⟩ := execInit_cases h
    · exact .inl ⟨he, rfl⟩
    · exact .inr (.inr ⟨he, .init legal⟩)
    · exact .inr (.inl ⟨he, .badRate, by decide, rfl⟩)
  | absorb data =>
    obtain ⟨he, rfl⟩ | ⟨he, -, rfl⟩ | ⟨he, hfsm, hcursor, rfl⟩ := execAbsorb_cases h
    · exact .inl ⟨he, rfl⟩
    · exact .inr (.inl ⟨he, .badState, by decide, rfl⟩)
    · exact .inr (.inr ⟨he, .absorb hfsm hcursor⟩)
  | finalize =>
    obtain ⟨he, rfl⟩ | ⟨he, -, rfl⟩ | ⟨he, hfsm, hcursor, hrate, rfl⟩ := execFinalize_cases h
    · exact .inl ⟨he, rfl⟩
    · exact .inr (.inl ⟨he, .badState, by decide, rfl⟩)
    · exact .inr (.inr ⟨he, .finalize hfsm hcursor hrate⟩)
  | squeeze =>
    obtain ⟨he, rfl⟩ | ⟨he, -, rfl⟩ | ⟨he, hfsm, hcursor, rfl⟩ := execSqueeze_cases h
    · exact .inl ⟨he, rfl⟩
    · exact .inr (.inl ⟨he, .badState, by decide, rfl⟩)
    · exact .inr (.inr ⟨he, .squeeze hfsm hcursor⟩)
  | permute =>
    obtain ⟨he, rfl⟩ | ⟨he, rfl⟩ := execPermute_cases h
    · exact .inl ⟨he, rfl⟩
    · exact .inr (.inr ⟨he, .permute⟩)
  | peek index =>
    obtain ⟨he, rfl⟩ | ⟨he, -, rfl⟩ | ⟨he, hindex, rfl⟩ := execPeek_cases h
    · exact .inl ⟨he, rfl⟩
    · exact .inr (.inl ⟨he, .badIndex, by decide, rfl⟩)
    · exact .inr (.inr ⟨he, .peek hindex⟩)

/-! ### The frame -/

/-- Settles O9: a discarded or errored command writes the error bits and the port at most; an effect is read off
command by command. -/
theorem commandsKeepTheirFrame : Obligations.CommandsKeepTheirFrame := by
  intro i s t h
  obtain ⟨-, rfl⟩ | ⟨-, code, -, rfl⟩ | ⟨-, heffect⟩ := exec_cases h
  · refine ⟨by simp, by simp, by simp, by simp, fun hsilent => by simp [hsilent]⟩
  · refine ⟨by simp, by simp, by simp, by simp, fun hsilent => by simp [hsilent]⟩
  · cases heffect with
    | squeeze | peek => simp [responds]
    | nop | init | absorb | finalize | permute => simp

end Sys2Proof.Machine
end

section
/-! PROOFS. The invariants of R21, R23 and of the response port hold right after reset and are kept by every step
(10_state.md R21, R23, R24, R28; 30_encoding.md R50). -/

namespace Sys2Proof.Machine

/-- Settles O22: every register is at the value R30 gives it. -/
theorem resetMeetsInvariant : Obligations.ResetMeetsInvariant :=
  ⟨⟨rfl, rfl, rfl⟩, ⟨fun _ => rfl, fun _ => rfl⟩, ⟨rfl, fun hbusy => absurd hbusy (by decide)⟩⟩

/-! ### The FSM's invariant (R21) -/

@[simp] theorem fsmInv_setError (code : ErrCode) (s : State) : FsmInv (s.setError code) ↔ FsmInv s := Iff.rfl
@[simp] theorem fsmInv_deliver (s : State) : FsmInv s.deliver ↔ FsmInv s := by simp [FsmInv]
@[simp] theorem fsmInv_emit (b : Byte) (s : State) : FsmInv (s.emit b) ↔ FsmInv s := by simp [FsmInv]
@[simp] theorem fsmInv_emitZeroIf (r : Bool) (s : State) : FsmInv (s.emitZeroIf r) ↔ FsmInv s := by simp [FsmInv]

theorem fsmInv_of_absorbing {s : State} (hfsm : s.fsm = .absorbing) :
    FsmInv s ↔ 1 ≤ s.rate.toNat ∧ s.rate.toNat ≤ 200 ∧ s.cursor.toNat < s.rate.toNat := by
  simp [FsmInv, hfsm]

theorem fsmInv_of_squeezing {s : State} (hfsm : s.fsm = .squeezing) :
    FsmInv s ↔ 1 ≤ s.rate.toNat ∧ s.rate.toNat ≤ 200 ∧ s.cursor.toNat ≤ s.rate.toNat := by
  simp [FsmInv, hfsm]

theorem rateLegal_iff {rate : Byte} : rateLegal rate = true ↔ 1 ≤ rate.toNat ∧ rate.toNat ≤ 200 := by
  simp [rateLegal]

/-- A cursor below a legal rate steps without wrapping around. -/
theorem toNat_cursor_succ {cursor rate : Byte} (hrate : rate.toNat ≤ 200) (hcursor : cursor.toNat < rate.toNat) :
    (cursor + 1).toNat = cursor.toNat + 1 := by
  have hfits : cursor.toNat + 1 < 2 ^ 8 := by omega
  exact BitVec.toNat_add_of_lt hfits

/-- ABSORB's advance keeps the cursor below the rate: it starts again when it would reach it (R84). -/
theorem fsmInv_advanceAbsorb {s : State} (hfsm : s.fsm = .absorbing) (h : FsmInv s) : FsmInv s.advanceAbsorb := by
  obtain ⟨hpos, hrate, hcursor⟩ := (fsmInv_of_absorbing hfsm).mp h
  rw [fsmInv_of_absorbing (by simpa using hfsm), State.advanceAbsorb_rate]
  refine ⟨hpos, hrate, ?_⟩
  by_cases hfull : s.cursor + 1 = s.rate
  · rw [advanceAbsorb_full hfull]
    exact hpos
  · have hne : (s.cursor + 1).toNat ≠ s.rate.toNat := fun heq => hfull (BitVec.eq_of_toNat_eq heq)
    rw [advanceAbsorb_room hfull, State.setCursor_cursor]
    rw [toNat_cursor_succ hrate hcursor] at hne ⊢
    omega

/-- SQUEEZE emits at a cursor strictly below the rate (R88). -/
theorem startBlock_cursor_lt_rate {s : State} (hfsm : s.fsm = .squeezing) (h : FsmInv s) :
    s.startBlock.cursor.toNat < s.rate.toNat := by
  obtain ⟨hpos, -, hcursor⟩ := (fsmInv_of_squeezing hfsm).mp h
  by_cases hused : s.cursor = s.rate
  · rw [startBlock_used hused]
    exact hpos
  · have hne : s.cursor.toNat ≠ s.rate.toNat := fun heq => hused (BitVec.eq_of_toNat_eq heq)
    rw [startBlock_unused hused]
    omega

theorem Effect.fsmInv {i : Instr} {s t : State} (heffect : Effect s i t) (h : FsmInv s) : FsmInv t := by
  cases heffect with
  | nop => exact h
  | init legal =>
    obtain ⟨hpos, hrate⟩ := rateLegal_iff.mp legal
    exact (fsmInv_of_absorbing rfl).mpr ⟨hpos, hrate, hpos⟩
  | absorb hfsm hcursor => exact fsmInv_advanceAbsorb hfsm h
  | finalize hfsm hcursor hrate =>
    obtain ⟨hpos, hle, -⟩ := (fsmInv_of_absorbing hfsm).mp h
    exact (fsmInv_of_squeezing rfl).mpr ⟨hpos, hle, Nat.zero_le _⟩
  | squeeze hfsm hcursor =>
    obtain ⟨hpos, hle, -⟩ := (fsmInv_of_squeezing hfsm).mp h
    have hlt := startBlock_cursor_lt_rate hfsm h
    rw [fsmInv_of_squeezing (by simpa using hfsm)]
    simp only [State.setCursor_rate, State.emit_rate, State.startBlock_rate, State.setCursor_cursor,
      toNat_cursor_succ hle hlt]
    exact ⟨hpos, hle, hlt⟩
  | permute => exact h
  | peek hindex => simpa using h

theorem exec_keeps_fsmInv {i : Instr} {s t : State} (h : exec i s = .next t) (hinv : FsmInv s) : FsmInv t := by
  obtain ⟨-, rfl⟩ | ⟨-, code, -, rfl⟩ | ⟨-, heffect⟩ := exec_cases h
  · simpa using hinv
  · simpa using hinv
  · exact heffect.fsmInv hinv

/-! ### The error record (R23) -/

@[simp] theorem errInv_emitZeroIf (r : Bool) (s : State) : ErrInv (s.emitZeroIf r) ↔ ErrInv s := by simp [ErrInv]

theorem errInv_setError {code : ErrCode} (hcode : code ≠ .none) (s : State) : ErrInv (s.setError code) := by
  simp [ErrInv, hcode]

theorem Effect.error_record {i : Instr} {s t : State} (heffect : Effect s i t) :
    t.err = s.err ∧ t.errCode = s.errCode := by
  cases heffect <;> simp

theorem exec_keeps_errInv {i : Instr} {s t : State} (h : exec i s = .next t) (hinv : ErrInv s) : ErrInv t := by
  obtain ⟨-, rfl⟩ | ⟨-, code, hcode, rfl⟩ | ⟨-, heffect⟩ := exec_cases h
  · simpa using hinv
  · simpa using errInv_setError hcode s
  · obtain ⟨herr, hcode⟩ := heffect.error_record
    rwa [ErrInv, herr, hcode]

/-! ### The response port (R24, R28, R50) -/

theorem portInv_emitZeroIf {s : State} (r : Bool) (h : PortInv s) : PortInv (s.emitZeroIf r) := by
  cases r
  · exact h
  · exact emit_portInv 0x00 s

/-- Delivering restores the port's invariant at any level of `rsp_ready`: a byte still waits only for a host that does
not take it. -/
theorem portInv_deliver {s : State} (hwaits : s.busy = s.rspPending.isSome) : PortInv s.deliver := by
  cases hbyte : s.rspPending with
  | none => simp [State.deliver, PortInv, hbyte, hwaits]
  | some b =>
    cases hready : s.rspReady
    · simp [State.deliver, PortInv, hbyte, hwaits, hready]
    · simp [deliver_ready hbyte hready, PortInv]

theorem portInv_setRspReady {s : State} (level : Bool) (h : PortInv s) : PortInv (s.setRspReady level) :=
  portInv_deliver h.1

theorem Effect.portInv {i : Instr} {s t : State} (heffect : Effect s i t) (h : PortInv s) : PortInv t := by
  cases heffect with
  | nop => exact h
  | init legal => exact h
  | absorb hfsm hcursor => simpa [PortInv] using h
  | finalize hfsm hcursor hrate => exact h
  | squeeze hfsm hcursor => exact emit_portInv _ s.startBlock
  | permute => exact h
  | peek hindex => exact emit_portInv _ s

theorem exec_keeps_portInv {i : Instr} {s t : State} (h : exec i s = .next t) (hinv : PortInv s) : PortInv t := by
  obtain ⟨-, rfl⟩ | ⟨-, code, -, rfl⟩ | ⟨-, heffect⟩ := exec_cases h
  · exact portInv_emitZeroIf _ hinv
  · exact portInv_emitZeroIf (s := s.setError code) _ hinv
  · exact heffect.portInv hinv

/-! ### Words and steps -/

theorem exec_keeps_blockInv {i : Instr} {s t : State} (h : exec i s = .next t) (hinv : BlockInv s) : BlockInv t :=
  ⟨exec_keeps_fsmInv h hinv.fsm, exec_keeps_errInv h hinv.err, exec_keeps_portInv h hinv.port⟩

theorem blockInv_emitZeroIf {s : State} (r : Bool) (h : BlockInv s) : BlockInv (s.emitZeroIf r) :=
  ⟨by simpa using h.fsm, by simpa using h.err, portInv_emitZeroIf r h.port⟩

theorem blockInv_setError {code : ErrCode} (hcode : code ≠ .none) {s : State} (h : BlockInv s) :
    BlockInv (s.setError code) :=
  ⟨h.fsm, errInv_setError hcode s, h.port⟩

theorem rejectWord_keeps_blockInv {r : Bool} {code : ErrCode} (hcode : code ≠ .none) {s t : State}
    (h : rejectWord r code s = .next t) (hinv : BlockInv s) : BlockInv t := by
  obtain ⟨-, rfl⟩ | ⟨-, rfl⟩ := rejectWord_cases h
  · exact blockInv_emitZeroIf r hinv
  · exact blockInv_emitZeroIf r (blockInv_setError hcode hinv)

theorem acceptWord_keeps_blockInv {w : Word} {s t : State} (h : acceptWord w s = .next t) (hinv : BlockInv s) :
    BlockInv t := by
  obtain ⟨i, -, h⟩ | ⟨-, h⟩ | ⟨-, h⟩ := acceptWord_cases h
  · exact exec_keeps_blockInv h hinv
  · exact rejectWord_keeps_blockInv (by decide) h hinv
  · exact rejectWord_keeps_blockInv (by decide) h hinv

/-- No invariant speaks of what the host does next. -/
theorem BlockInv.setHost {s : State} (h : BlockInv s) (rest : List HostEvent) : BlockInv { s with host := rest } :=
  ⟨h.fsm, h.err, h.port⟩

theorem blockInv_setRspReady {s : State} (level : Bool) (h : BlockInv s) : BlockInv (s.setRspReady level) :=
  ⟨(fsmInv_deliver _).mpr h.fsm, by simpa [ErrInv, State.setRspReady] using h.err, portInv_setRspReady level h.port⟩

/-- The reset edge establishes the invariants, whatever the state was (R128). -/
theorem blockInv_resetEdge (s : State) : BlockInv s.resetEdge :=
  ⟨⟨rfl, rfl, rfl⟩, ⟨fun _ => rfl, fun _ => rfl⟩, ⟨rfl, fun hbusy => absurd hbusy Bool.false_ne_true⟩⟩

theorem blockInv_readStatus {s : State} (h : BlockInv s) : BlockInv s.readStatus := ⟨h.fsm, h.err, h.port⟩

/-- Settles O23: one keeping lemma per thing a step can do. -/
theorem stepKeepsInvariant : Obligations.StepKeepsInvariant := by
  intro s t hinv h
  obtain ⟨-, rfl⟩ | ⟨w, rest, -, -, rfl⟩ | ⟨w, rest, -, -, haccept⟩ | ⟨level, rest, -, rfl⟩ | ⟨rest, -, rfl⟩ |
    ⟨rest, -, rfl⟩ := step_cases h
  · exact hinv
  · exact hinv
  · exact acceptWord_keeps_blockInv haccept (hinv.setHost rest)
  · exact blockInv_setRspReady level (hinv.setHost rest)
  · exact blockInv_resetEdge _
  · exact blockInv_readStatus (hinv.setHost rest)

end Sys2Proof.Machine
end

section
/-! PROOFS. Who writes the rate and who reads the delimiter (10_state.md R17, R18). -/

namespace Sys2Proof.Machine

/-! ### The rate -/

@[simp] theorem State.setRspReady_rate (level : Bool) (s : State) : (s.setRspReady level).rate = s.rate := by
  simp [State.setRspReady]

/-- A command leaves the rate, or is an INIT whose legal rate it is now (R17). -/
theorem exec_rate {i : Instr} {s t : State} (h : exec i s = .next t) :
    t.rate = s.rate ∨ ∃ delim, i = .init t.rate delim ∧ 1 ≤ t.rate.toNat ∧ t.rate.toNat ≤ 200 := by
  cases i with
  | init rate delim =>
    obtain ⟨-, rfl⟩ | ⟨-, legal, rfl⟩ | ⟨-, -, rfl⟩ := execInit_cases h
    · exact .inl rfl
    · exact .inr ⟨delim, rfl, rateLegal_iff.mp legal⟩
    · exact .inl rfl
  | _ =>
    obtain ⟨-, hkeeps, -⟩ := commandsKeepTheirFrame _ _ _ h
    exact .inl (hkeeps (by simp)).1

theorem rejectWord_rate {r : Bool} {code : ErrCode} {s t : State} (h : rejectWord r code s = .next t) :
    t.rate = s.rate := by
  obtain ⟨-, rfl⟩ | ⟨-, rfl⟩ := rejectWord_cases h <;> simp

/-- An accepted word leaves the rate, or is an INIT word whose legal rate it is now. -/
theorem acceptWord_rate {w : Word} {s t : State} (h : acceptWord w s = .next t) :
    t.rate = s.rate ∨
      ∃ delim, decode w = .instr (.init t.rate delim) ∧ 1 ≤ t.rate.toNat ∧ t.rate.toNat ≤ 200 := by
  obtain ⟨i, hdecode, h⟩ | ⟨-, h⟩ | ⟨-, h⟩ := acceptWord_cases h
  · obtain hkept | ⟨delim, rfl, hlegal⟩ := exec_rate h
    · exact .inl hkept
    · exact .inr ⟨delim, hdecode, hlegal⟩
  · exact .inl (rejectWord_rate h)
  · exact .inl (rejectWord_rate h)

/-- Settles O25: of the things a step can do only a reset and an accepted word (`acceptWord_rate`) reach the rate. -/
theorem rateIsWrittenOnlyByInitAndReset : Obligations.RateIsWrittenOnlyByInitAndReset := by
  intro s t h
  obtain ⟨-, rfl⟩ | ⟨w, rest, -, -, rfl⟩ | ⟨w, rest, hoffer, -, haccept⟩ | ⟨level, rest, -, rfl⟩ |
    ⟨rest, hreset, rfl⟩ | ⟨rest, -, rfl⟩ := step_cases h
  · exact .inl rfl
  · exact .inl rfl
  · obtain hkept | ⟨delim, hdecode, hlegal⟩ := acceptWord_rate haccept
    · exact .inl hkept
    · exact .inr (.inr ⟨w, rest, delim, hoffer, hdecode, hlegal⟩)
  · exact .inl (by simp)
  · exact .inr (.inl ⟨rfl, rest, hreset⟩)
  · exact .inl rfl

/-! ### The delimiter: it commutes with every operation but FINALIZE's first padding byte and INIT -/

/-- `delim <- d`. -/
def State.setDelim (d : Byte) (s : State) : State := { s with delim := d }

/-- The outcome with another delimiter in its next state. -/
def outcomeWithDelim (d : Byte) (o : Outcome) : Outcome := andThen o fun t => .next (t.setDelim d)

@[simp] theorem outcomeWithDelim_next (d : Byte) (s : State) :
    outcomeWithDelim d (.next s) = .next (s.setDelim d) := rfl
@[simp] theorem outcomeWithDelim_fault (d : Byte) (r : Fault) : outcomeWithDelim d (.fault r) = .fault r := rfl

section
variable (d : Byte) (s : State)

@[simp] theorem State.setDelim_lanes : (s.setDelim d).lanes = s.lanes := rfl
@[simp] theorem State.setDelim_rate : (s.setDelim d).rate = s.rate := rfl
@[simp] theorem State.setDelim_cursor : (s.setDelim d).cursor = s.cursor := rfl
@[simp] theorem State.setDelim_fsm : (s.setDelim d).fsm = s.fsm := rfl
@[simp] theorem State.setDelim_err : (s.setDelim d).err = s.err := rfl
@[simp] theorem State.setDelim_rspReady : (s.setDelim d).rspReady = s.rspReady := rfl

@[simp] theorem setDelim_setLanes (A : Lanes) : (s.setDelim d).setLanes A = (s.setLanes A).setDelim d := rfl
@[simp] theorem setDelim_setCursor (c : Byte) : (s.setDelim d).setCursor c = (s.setCursor c).setDelim d := rfl
@[simp] theorem setDelim_setError (code : ErrCode) :
    (s.setDelim d).setError code = (s.setError code).setDelim d := rfl
@[simp] theorem setDelim_permute : (s.setDelim d).permute = s.permute.setDelim d := rfl

@[simp] theorem setDelim_emit (b : Byte) : (s.setDelim d).emit b = (s.emit b).setDelim d := by
  cases h : s.rspReady
  · rw [emit_waiting b h, emit_waiting b (by simpa using h)]; rfl
  · rw [emit_ready b h, emit_ready b (by simpa using h)]; rfl

@[simp] theorem setDelim_emitZeroIf (r : Bool) :
    (s.setDelim d).emitZeroIf r = (s.emitZeroIf r).setDelim d := by
  cases r <;> simp

@[simp] theorem setDelim_advanceAbsorb : (s.setDelim d).advanceAbsorb = s.advanceAbsorb.setDelim d := by
  by_cases h : s.cursor + 1 = s.rate
  · rw [advanceAbsorb_full h, advanceAbsorb_full (by simpa using h)]; rfl
  · rw [advanceAbsorb_room h, advanceAbsorb_room (by simpa using h)]; rfl

@[simp] theorem setDelim_startBlock : (s.setDelim d).startBlock = s.startBlock.setDelim d := by
  by_cases h : s.cursor = s.rate
  · rw [startBlock_used h, startBlock_used (by simpa using h)]; rfl
  · rw [startBlock_unused h, startBlock_unused (by simpa using h)]

theorem setDelim_xorByte (k v : Byte) :
    (s.setDelim d).xorByte k v = outcomeWithDelim d (s.xorByte k v) := by
  unfold State.xorByte
  cases byteIndex k <;> simp

/-- A byte emitted does not depend on the delimiter, when what is done after it does not. -/
theorem setDelim_emitByte (k : Byte) {f : State → State} (hf : ∀ t : State, f (t.setDelim d) = (f t).setDelim d) :
    (s.setDelim d).emitByte k f = outcomeWithDelim d (s.emitByte k f) := by
  unfold State.emitByte
  cases byteIndex k <;> simp [hf]

/-- What is done after an outcome may be given the other delimiter, when it does not read it. -/
theorem andThen_outcomeWithDelim (o : Outcome) {f : State → Outcome}
    (hf : ∀ t : State, f (t.setDelim d) = outcomeWithDelim d (f t)) :
    andThen (outcomeWithDelim d o) f = outcomeWithDelim d (andThen o f) := by
  cases o with
  | next t => exact hf t
  | fault r => rfl
  | refused r => rfl

theorem setDelim_raiseError (r : Bool) (code : ErrCode) :
    raiseError r code (s.setDelim d) = outcomeWithDelim d (raiseError r code s) := by
  simp [raiseError]

/-- The lock check does not read the delimiter: it is enough to look at the body. -/
theorem setDelim_unlessLocked {r : Bool} {o o' : Outcome} (hbody : o' = outcomeWithDelim d o) :
    unlessLocked r (s.setDelim d) o' = outcomeWithDelim d (unlessLocked r s o) := by
  cases h : s.err
  · rw [unlessLocked_open h, unlessLocked_open (by simpa using h), hbody]
  · rw [unlessLocked_locked h, unlessLocked_locked (by simpa using h), setDelim_emitZeroIf, outcomeWithDelim_next]

/-! ### The commands that do not read it -/

theorem setDelim_execAbsorb (data : Byte) :
    execAbsorb data (s.setDelim d) = outcomeWithDelim d (execAbsorb data s) := by
  refine setDelim_unlessLocked d s ?_
  by_cases hfsm : s.fsm = .absorbing
  · rw [if_pos hfsm, if_pos (by simpa using hfsm), State.setDelim_cursor, setDelim_xorByte]
    exact andThen_outcomeWithDelim d _ fun t => by rw [setDelim_advanceAbsorb, outcomeWithDelim_next]
  · rw [if_neg hfsm, if_neg (by simpa using hfsm), setDelim_raiseError]

theorem setDelim_execSqueeze : execSqueeze (s.setDelim d) = outcomeWithDelim d (execSqueeze s) := by
  refine setDelim_unlessLocked d s ?_
  by_cases hfsm : s.fsm = .squeezing
  · rw [if_pos hfsm, if_pos (by simpa using hfsm), setDelim_startBlock, State.setDelim_cursor]
    exact setDelim_emitByte d _ _ fun t => rfl
  · rw [if_neg hfsm, if_neg (by simpa using hfsm), setDelim_raiseError]

theorem setDelim_execPeek (index : Byte) :
    execPeek index (s.setDelim d) = outcomeWithDelim d (execPeek index s) := by
  refine setDelim_unlessLocked d s ?_
  by_cases hindex : index.toNat > 199
  · rw [if_pos hindex, if_pos hindex, setDelim_raiseError]
  · rw [if_neg hindex, if_neg hindex]
    exact setDelim_emitByte d s _ fun t => rfl

end

/-- Settles O26: the delimiter commutes with each command but the two the statement leaves out. -/
theorem delimIsReadOnlyByFinalize : Obligations.DelimIsReadOnlyByFinalize := by
  intro i s d hfinalize hinit
  cases i with
  | nop => exact setDelim_unlessLocked d s rfl
  | init rate delim => exact absurd rfl (hinit rate delim)
  | absorb data => exact setDelim_execAbsorb d s data
  | finalize => exact absurd rfl hfinalize
  | squeeze => exact setDelim_execSqueeze d s
  | permute => exact setDelim_unlessLocked d s rfl
  | peek index => exact setDelim_execPeek d s index

end Sys2Proof.Machine
end

section
/-! PROOFS. The status word (10_state.md R25; 70_reset_and_hazards.md R136). -/

namespace Sys2Proof.Machine

/-! ### The fields of the registers' word: the fields below are passed over one by one -/

theorem statusOfRegisters_fsm (s : State) : (statusOfRegisters s).extractLsb' 0 2 = fsmBits s.fsm :=
  BitVec.extractLsb'_append_eq_right

theorem statusOfRegisters_errCode (s : State) : (statusOfRegisters s).extractLsb' 4 3 = errBits s.errCode := by
  unfold statusOfRegisters
  repeat rw [BitVec.extractLsb'_append_eq_of_le (by decide)]
  exact BitVec.extractLsb'_append_eq_right

theorem statusOfRegisters_cursor (s : State) : (statusOfRegisters s).extractLsb' 8 8 = s.cursor := by
  unfold statusOfRegisters
  repeat rw [BitVec.extractLsb'_append_eq_of_le (by decide)]
  exact BitVec.extractLsb'_append_eq_right

theorem statusOfRegisters_rate (s : State) : (statusOfRegisters s).extractLsb' 16 8 = s.rate := by
  unfold statusOfRegisters
  repeat rw [BitVec.extractLsb'_append_eq_of_le (by decide)]
  exact BitVec.extractLsb'_append_eq_right

theorem statusOfRegisters_delim (s : State) : (statusOfRegisters s).extractLsb' 24 8 = s.delim := by
  unfold statusOfRegisters
  repeat rw [BitVec.extractLsb'_append_eq_of_le (by decide)]
  exact BitVec.extractLsb'_eq_self

theorem statusOfRegisters_busy (s : State) : (statusOfRegisters s).getLsbD 2 = s.busy := by
  simp only [statusOfRegisters, BitVec.getLsbD_append]
  simp

theorem statusOfRegisters_err (s : State) : (statusOfRegisters s).getLsbD 3 = s.err := by
  simp only [statusOfRegisters, BitVec.getLsbD_append]
  simp

theorem statusOfRegisters_bit7 (s : State) : (statusOfRegisters s).getLsbD 7 = false := by
  simp only [statusOfRegisters, BitVec.getLsbD_append]
  simp

/-! ### The status output -/

theorem statusWord_idle {s : State} (h : s.busy = false) : statusWord s = statusOfRegisters s := by
  simp [statusWord, h]

theorem statusWord_busy {s : State} (h : s.busy = true) : statusWord s = busyStatus (Config.freeStatus s.free) := by
  simp [statusWord, h]

/-- Bits 2 and 7 are fixed in a status word while BUSY = 1, whatever its fields read (R136). -/
theorem busyStatus_fixed_bits (any : Word) :
    (busyStatus any).getLsbD 2 = true ∧ (busyStatus any).getLsbD 7 = false := by
  simp [busyStatus]

/-- A status read is served by recording the word (R51). -/
theorem step_readStatus {s : State} {rest : List HostEvent} (h : s.host = .readStatus :: rest) :
    step s = .next (State.readStatus { s with host := rest }) := by
  simp only [step, h, serveEvent]

/-- Settles O34: the fields one by one on an idle block, the fixed bits on a busy one, and the read. -/
theorem statusWordShowsRegisters : Obligations.StatusWordShowsRegisters := by
  refine ⟨fun s hidle => ?_, fun s hbusy => ?_, fun s rest hhost => ⟨_, step_readStatus hhost⟩⟩
  · rw [statusWord_idle hidle]
    exact ⟨statusOfRegisters_fsm s, (statusOfRegisters_busy s).trans hidle, statusOfRegisters_err s,
      statusOfRegisters_errCode s, statusOfRegisters_bit7 s, statusOfRegisters_cursor s, statusOfRegisters_rate s,
      statusOfRegisters_delim s⟩
  · rw [statusWord_busy hbusy]
    exact busyStatus_fixed_bits _

end Sys2Proof.Machine
end

section
/-! PROOFS. The byte view of the lanes, bit by bit, and the capacity part (20_memory.md R34 to R37, R40). -/

namespace Sys2Proof.Machine

/-! ### Bits of a state byte and of a lane (R36) -/

/-- Bit i of state byte k is bit `8*(k mod 8) + i` of lane `k div 8`. -/
theorem getLsbD_stateByte (A : Lanes) (k : Fin 200) {i : Nat} (hi : i < 8) :
    (stateByte A k).getLsbD i = A[byteLane k].getLsbD (byteShift k + i) := by
  simp [stateByte, hi]

/-- Bit r of byte q of a lane of `lanesOfBytes f` is bit r of byte `8*lane + q` of f: the q bytes appended below it are
passed over. -/
theorem getLsbD_lanesOfBytes (f : Fin 200 → Byte) (lane : Fin 25) (q : Fin 8) {r : Nat} (hr : r < 8) :
    (lanesOfBytes f)[lane].getLsbD (8 * q.val + r) = (f ⟨8 * lane.val + q.val, by omega⟩).getLsbD r := by
  simp only [lanesOfBytes, Fin.getElem_fin, Vector.getElem_ofFn, BitVec.getLsbD_append]
  fin_cases q <;> simp [hr] <;> grind

/-- Settles O39: either way round, a bit goes to its place in the other view and back. -/
theorem byteViewAndLanesAgree : Obligations.ByteViewAndLanesAgree := by
  refine ⟨fun f k => ?_, fun A => ?_⟩
  · refine BitVec.eq_of_getLsbD_eq fun i hi => ?_
    rw [getLsbD_stateByte _ _ hi, byteShift, getLsbD_lanesOfBytes f (byteLane k) ⟨k.val % 8, by omega⟩ hi]
    congr 2
    exact Fin.ext (Nat.div_add_mod k.val 8)
  · refine Vector.ext fun lane hlane => BitVec.eq_of_getLsbD_eq fun b hb => ?_
    have hbit := getLsbD_lanesOfBytes (stateByte A) ⟨lane, hlane⟩ ⟨b / 8, by omega⟩ (Nat.mod_lt b (by decide))
    have hback : (8 * lane + b / 8) / 8 = lane := by omega
    have hplace : 8 * ((8 * lane + b / 8) % 8) + b % 8 = b := by omega
    rw [getLsbD_stateByte _ _ (Nat.mod_lt b (by decide)), Nat.div_add_mod] at hbit
    simpa only [byteLane, byteShift, Fin.getElem_fin, hback, hplace] using hbit

/-! ### Exclusive-oring one byte (R37) -/

/-- A byte placed at byte k's position in a lane has its bits at byte k and nowhere else in that lane. -/
theorem getLsbD_placedByte (v : Byte) {k j : Fin 200} (hlane : byteLane j = byteLane k) {i : Nat} (hi : i < 8) :
    (v.setWidth 64 <<< byteShift k).getLsbD (byteShift j + i) = (decide (j = k) && v.getLsbD i) := by
  have hdiv : j.val / 8 = k.val / 8 := congrArg Fin.val hlane
  by_cases hjk : j = k
  · subst hjk
    have hfits : byteShift j + i < 64 := by unfold byteShift; omega
    simp [hfits]
  · have hmod : j.val % 8 ≠ k.val % 8 := fun h => hjk (Fin.ext (by omega))
    rcases Nat.lt_or_gt_of_ne hmod with hbelow | habove
    · have hlt : byteShift j + i < byteShift k := by unfold byteShift; omega
      simp [hlt, hjk]
    · have hge : 8 ≤ byteShift j + i - byteShift k := by unfold byteShift; omega
      simp [BitVec.getLsbD_of_ge v _ hge, hjk]

/-- Only the lane that holds byte k is written, with the byte at its position. -/
theorem getElem_xorStateByte (A : Lanes) (k : Fin 200) (v : Byte) (lane : Fin 25) :
    (xorStateByte A k v)[lane] =
      if lane = byteLane k then A[lane] ^^^ (v.setWidth 64 <<< byteShift k) else A[lane] := by
  by_cases h : lane = byteLane k
  · subst h
    simp [xorStateByte]
  · have hval : (byteLane k).val ≠ lane.val := fun heq => h (Fin.ext heq.symm)
    simp [xorStateByte, Vector.getElem_set_ne _ _ hval, h]

/-- Settles O40: another lane is not written, and in the lane that is the byte lands on its own eight bits. -/
theorem xorStateByteIsLocal : Obligations.XorStateByteIsLocal := by
  intro A k j v
  refine BitVec.eq_of_getLsbD_eq fun i hi => ?_
  rw [getLsbD_stateByte _ _ hi, getElem_xorStateByte]
  by_cases hlane : byteLane j = byteLane k
  · rw [if_pos hlane, BitVec.getLsbD_xor, getLsbD_placedByte v hlane hi, ← getLsbD_stateByte _ _ hi]
    by_cases hjk : j = k <;> simp [hjk]
  · have hjk : j ≠ k := fun h => hlane (congrArg byteLane h)
    rw [if_neg hlane, if_neg hjk, getLsbD_stateByte _ _ hi]

/-- A byte other than the one written is as before. -/
theorem stateByte_xorStateByte_ne (A : Lanes) {k j : Fin 200} (v : Byte) (hne : j ≠ k) :
    stateByte (xorStateByte A k v) j = stateByte A j := by
  rw [xorStateByteIsLocal, if_neg hne]

/-! ### The capacity part (R34, R35) -/

/-- ABSORB that fills no block writes the byte at the cursor alone, which lies below the rate. -/
theorem absorb_keeps_capacity {s : State} {data : Byte} {k : Fin 200} (hfsm : s.fsm = .absorbing) (hinv : FsmInv s)
    (hcursor : s.cursor.toNat < 200) (hroom : s.cursor + 1 ≠ s.rate) (hk : s.rate.toNat ≤ k.val) :
    stateByte (s.setLanes (xorStateByte s.lanes ⟨s.cursor.toNat, hcursor⟩ data)).advanceAbsorb.lanes k =
      stateByte s.lanes k := by
  obtain ⟨-, -, hbelow⟩ := (fsmInv_of_absorbing hfsm).mp hinv
  have hne : k ≠ ⟨s.cursor.toNat, hcursor⟩ := fun h => by
    have hval : k.val = s.cursor.toNat := congrArg Fin.val h
    omega
  rw [advanceAbsorb_room (by simpa using hroom)]
  exact stateByte_xorStateByte_ne _ _ hne

/-- Settles O27: a command without a permutation leaves the lanes as they are, but for ABSORB's byte below the rate. -/
theorem capacityIsUntouched : Obligations.CapacityIsUntouched := by
  intro i s t k hinv h hinit hperm hk
  obtain ⟨-, rfl⟩ | ⟨-, code, -, rfl⟩ | ⟨herr, heffect⟩ := exec_cases h
  · simp
  · simp
  · cases heffect with
    | nop => rfl
    | init legal => exact absurd rfl (hinit _ _)
    | absorb hfsm hcursor =>
      have hroom : s.cursor + 1 ≠ s.rate := by simpa [permutations, herr, hfsm] using hperm
      exact absorb_keeps_capacity hfsm hinv hcursor hroom hk
    | finalize hfsm hcursor hrate => simp [permutations, herr, hfsm] at hperm
    | squeeze hfsm hcursor =>
      have hunused : s.cursor ≠ s.rate := by simpa [permutations, herr, hfsm] using hperm
      simp [startBlock_unused hunused]
    | permute => simp [permutations, herr] at hperm
    | peek hindex => simp

end Sys2Proof.Machine
end

section
/-! PROOFS. No step from a state that meets the invariants stops, but for a withdrawn word (20_memory.md R42;
70_reset_and_hazards.md R142, R143). -/

namespace Sys2Proof.Machine

@[simp] theorem completes_next (s : State) : Completes (.next s) := ⟨s, rfl⟩

@[simp] theorem completes_raiseError (r : Bool) (code : ErrCode) (s : State) : Completes (raiseError r code s) :=
  completes_next _

/-- The lock check never stops: it is enough that the body completes. -/
theorem completes_unlessLocked {r : Bool} {s : State} {o : Outcome} (hbody : Completes o) :
    Completes (unlessLocked r s o) := by
  cases herr : s.err
  · rwa [unlessLocked_open herr]
  · rw [unlessLocked_locked herr]
    exact completes_next _

/-- In ABSORBING the cursor and the last byte of the block are state bytes, so neither write stops (R21). -/
theorem absorbing_indexes {s : State} (hfsm : s.fsm = .absorbing) (hinv : FsmInv s) :
    s.cursor.toNat < 200 ∧ (s.rate - 1).toNat < 200 := by
  obtain ⟨hpos, hrate, hcursor⟩ := (fsmInv_of_absorbing hfsm).mp hinv
  have hlast : (s.rate - 1).toNat = s.rate.toNat - 1 := BitVec.toNat_sub_of_le (BitVec.le_def.mpr hpos)
  omega

theorem execAbsorb_completes (data : Byte) {s : State} (hinv : FsmInv s) : Completes (execAbsorb data s) := by
  refine completes_unlessLocked ?_
  by_cases hfsm : s.fsm = .absorbing
  · obtain ⟨hcursor, -⟩ := absorbing_indexes hfsm hinv
    simp [hfsm, xorByte_of_lt hcursor]
  · simp [hfsm]

theorem execFinalize_completes {s : State} (hinv : FsmInv s) : Completes (execFinalize s) := by
  refine completes_unlessLocked ?_
  by_cases hfsm : s.fsm = .absorbing
  · obtain ⟨hcursor, hlast⟩ := absorbing_indexes hfsm hinv
    simp only [hfsm, if_true, xorByte_of_lt hcursor, andThen_next, State.setLanes_rate, xorByte_of_lt hlast,
      completes_next]
  · simp [hfsm]

theorem execSqueeze_completes {s : State} (hinv : FsmInv s) : Completes (execSqueeze s) := by
  refine completes_unlessLocked ?_
  by_cases hfsm : s.fsm = .squeezing
  · obtain ⟨-, hrate, -⟩ := (fsmInv_of_squeezing hfsm).mp hinv
    have hcursor := startBlock_cursor_lt_rate hfsm hinv
    simp [hfsm, emitByte_of_lt (Nat.lt_of_lt_of_le hcursor hrate)]
  · simp [hfsm]

theorem execPeek_completes (index : Byte) (s : State) : Completes (execPeek index s) := by
  refine completes_unlessLocked ?_
  by_cases hindex : index.toNat > 199
  · simp [hindex]
  · simp [hindex, emitByte_of_lt (show index.toNat < 200 by omega)]

/-- Under the invariant of R21 no command stops. -/
theorem exec_completes (i : Instr) {s : State} (hinv : FsmInv s) : Completes (exec i s) := by
  cases i with
  | nop => exact completes_unlessLocked (completes_next _)
  | init rate delim =>
    refine completes_unlessLocked ?_
    cases rateLegal rate <;> simp
  | absorb data => exact execAbsorb_completes data hinv
  | finalize => exact execFinalize_completes hinv
  | squeeze => exact execSqueeze_completes hinv
  | permute => exact completes_unlessLocked (completes_next _)
  | peek index => exact execPeek_completes index s

theorem rejectWord_completes (r : Bool) (code : ErrCode) (s : State) : Completes (rejectWord r code s) :=
  completes_unlessLocked (completes_raiseError r code s)

theorem acceptWord_completes (w : Word) {s : State} (hinv : FsmInv s) : Completes (acceptWord w s) := by
  unfold acceptWord
  split
  · exact exec_completes _ hinv
  · exact rejectWord_completes _ _ s
  · exact rejectWord_completes _ _ s

/-- A word offered to a busy block stays at the head of the host's list, and the block with it (R49, R143). -/
theorem step_held {s : State} {w : Word} {rest : List HostEvent} (hhost : s.host = .command w :: rest)
    (hbusy : s.busy = true) : step s = .next s := by
  simp [step, hhost, serveEvent, cmdReady, hbusy]

/-- Settles O24: by the next event; an accepted word completes by `acceptWord_completes`. -/
theorem stepCompletes : Obligations.StepCompletes := by
  intro s hinv hkeeps
  cases hhost : s.host with
  | nil => simp [step, hhost]
  | cons event rest =>
    cases event with
    | command w =>
      cases hbusy : s.busy
      · rw [step_offered (.inl hhost) hbusy]
        exact acceptWord_completes w (hinv.setHost rest).fsm
      · rw [step_held hhost hbusy]
        exact completes_next s
    | commandWithdrawn w =>
      have hbusy : s.busy = false := Bool.eq_false_iff.mpr fun hbusy => hkeeps hbusy w rest hhost
      rw [step_offered (.inr hhost) hbusy]
      exact acceptWord_completes w (hinv.setHost rest).fsm
    | rspReady level | reset | readStatus => simp [step, hhost, serveEvent]

end Sys2Proof.Machine
end

section
/-! PROOFS. What one clock edge can do, and the hold of an offered word (30_encoding.md R48, R49;
70_reset_and_hazards.md R128, R135, R143). -/

namespace Sys2Proof.Machine

/-! ### What an edge can do -/

/-- `EdgeMove p c d`: an edge with the pins p takes the chip c to d, when the host keeps its hold. -/
inductive EdgeMove (p : Pins) (c : Chip) : Chip → Prop where
  | reset (hrst : p.rst = true) : EdgeMove p c (c.after p c.block.resetEdge none)
  | complete {w : Word} {t : State} (hrst : p.rst = false) (hwork : c.work = some (w, 0))
      (haccept : acceptWord w { c.block with rspReady := false } = .next t) : EdgeMove p c (c.after p t none)
  | progress {w : Word} {n : Nat} (hrst : p.rst = false) (hwork : c.work = some (w, n + 1)) :
      EdgeMove p c (c.after p c.block (some (w, n)))
  | wait (hrst : p.rst = false) (hwork : c.work = none) (hbusy : c.block.busy = true) :
      EdgeMove p c (c.after p (c.block.setRspReady p.rspReady) none)
  | accept (hrst : p.rst = false) (hwork : c.work = none) (hbusy : c.block.busy = false) (hvalid : p.cmdValid = true) :
      EdgeMove p c { block := c.block, work := some (p.cmdData, latency p.cmdData c.block - 1), offered := none,
                     edges := c.edges + 1 }
  | idle (hrst : p.rst = false) (hwork : c.work = none) (hbusy : c.block.busy = false) (hvalid : p.cmdValid = false) :
      EdgeMove p c (c.after p c.block none)

theorem edge_of_move {p : Pins} {c d : Chip} (hhold : brokenHold p c = false) (hmove : EdgeMove p c d) :
    edge p c = .next d := by
  cases hmove with
  | reset hrst => simp [edge, hhold, hrst]
  | complete hrst hwork haccept => simp [edge, hhold, hrst, hwork, completeWork, haccept]
  | progress hrst hwork => simp [edge, hhold, hrst, hwork]
  | wait hrst hwork hbusy => simp [edge, hhold, hrst, hwork, hbusy]
  | accept hrst hwork hbusy hvalid => simp [edge, hhold, hrst, hwork, hbusy, hvalid]
  | idle hrst hwork hbusy hvalid => simp [edge, hhold, hrst, hwork, hbusy, hvalid]

theorem completeWork_cases {w : Word} {p : Pins} {c d : Chip} (h : completeWork w p c = .next d) :
    ∃ t, acceptWord w { c.block with rspReady := false } = .next t ∧ d = c.after p t none := by
  unfold completeWork at h
  split at h
  · exact ⟨_, by assumption, by cases h; rfl⟩
  · cases h
  · cases h

/-- An edge that answers a next chip kept the hold and made one of the moves. -/
theorem edge_cases {p : Pins} {c d : Chip} (h : edge p c = .next d) : brokenHold p c = false ∧ EdgeMove p c d := by
  unfold edge at h
  split at h
  · cases h
  next hhold =>
  refine ⟨Bool.eq_false_iff.mpr hhold, ?_⟩
  split at h
  next hrst => cases h; exact .reset hrst
  next hrst =>
  replace hrst := Bool.eq_false_iff.mpr hrst
  split at h
  next w hwork =>
    obtain ⟨t, haccept, rfl⟩ := completeWork_cases h
    exact .complete hrst hwork haccept
  next w n hwork => cases h; exact .progress hrst hwork
  next hwork =>
    split at h
    next hbusy => cases h; exact .wait hrst hwork hbusy
    next hbusy =>
    replace hbusy := Bool.eq_false_iff.mpr hbusy
    split at h
    next hvalid => cases h; exact .accept hrst hwork hbusy hvalid
    next hvalid => cases h; exact .idle hrst hwork hbusy (Bool.eq_false_iff.mpr hvalid)

/-! ### `cmd_ready` (R49, R128) -/

theorem cmdReady_iff {rst : Bool} {s : State} : cmdReady rst s = true ↔ s.busy = false ∧ rst = false := by
  simp [cmdReady]

theorem Chip.cmdReady_iff {rst : Bool} {c : Chip} :
    c.cmdReady rst = true ↔ c.work = none ∧ c.block.busy = false ∧ rst = false := by
  simp [Chip.cmdReady, Chip.busy, and_assoc]

/-! ### The hold -/

/-- At an edge at which `cmd_ready` is 1 an offered word is accepted, and the registers stay (R49). -/
theorem edge_of_ready {p : Pins} {c : Chip} (hhold : brokenHold p c = false) (hready : c.cmdReady p.rst = true) :
    ∃ d, edge p c = .next d ∧ d.block = c.block ∧ d.offered = none ∧
      (p.cmdValid = true → d.work = some (p.cmdData, latency p.cmdData c.block - 1)) ∧
      (p.cmdValid = false → d.work = none) := by
  obtain ⟨hwork, hbusy, hrst⟩ := Chip.cmdReady_iff.mp hready
  cases hvalid : p.cmdValid
  · exact ⟨_, edge_of_move hhold (.idle hrst hwork hbusy hvalid), rfl, by simp [Chip.after, heldWord, hvalid],
      by simp, fun _ => rfl⟩
  · exact ⟨_, edge_of_move hhold (.accept hrst hwork hbusy hvalid), rfl, rfl, fun _ => rfl, by simp⟩

/-- An edge at which `cmd_ready` is 0 remembers an offered word (R143). -/
theorem EdgeMove.offered_of_not_ready {p : Pins} {c d : Chip} (hmove : EdgeMove p c d)
    (hready : c.cmdReady p.rst = false) : d.offered = heldWord p := by
  cases hmove with
  | accept hrst hwork hbusy hvalid => simp [Chip.cmdReady_iff.mpr ⟨hwork, hbusy, hrst⟩] at hready
  | reset | complete | progress | wait | idle => rfl

/-- Settles O30: `edge_of_ready` for the accepting edge; an edge with `cmd_ready` 0 is one of the other moves. -/
theorem offeredWordIsHeldWhileBusy : Obligations.OfferedWordIsHeldWhileBusy := by
  refine ⟨fun _ _ => cmdReady_iff, fun _ _ => Chip.cmdReady_iff, fun _ _ => edge_of_ready,
    fun _ _ _ => step_held, fun p c d hready h => ?_⟩
  obtain ⟨-, hmove⟩ := edge_cases h
  refine ⟨fun hvalid => by rw [hmove.offered_of_not_ready hready, heldWord, if_pos hvalid], ?_⟩
  cases hmove with
  | reset hrst => simp [Chip.after, hrst]
  | complete hrst hwork haccept =>
    refine ⟨by simp [hrst], by simp [hwork], fun w _ hsame => ?_, by simp [hwork]⟩
    cases hwork.symm.trans hsame
    exact ⟨rfl, haccept⟩
  | progress hrst hwork => simp [Chip.after, hrst, hwork]
  | wait hrst hwork hbusy => simp [Chip.after, hrst, hwork]
  | accept hrst hwork hbusy hvalid => simp [Chip.cmdReady_iff.mpr ⟨hwork, hbusy, hrst⟩] at hready
  | idle hrst hwork hbusy hvalid => simp [Chip.cmdReady_iff.mpr ⟨hwork, hbusy, hrst⟩] at hready

end Sys2Proof.Machine
end

section
/-! PROOFS. The decoder reads the encoder's words back (30_encoding.md R52, R53, R60). -/

namespace Sys2Proof

theorem aField_packWord (op : BitVec 4) (b a : Byte) : aField (packWord op b a) = a :=
  BitVec.extractLsb'_append_eq_right

theorem bField_packWord (op : BitVec 4) (b a : Byte) : bField (packWord op b a) = b := by
  rw [bField, packWord, BitVec.extractLsb'_append_eq_of_le (by decide)]
  exact BitVec.extractLsb'_append_eq_right

/-- The word of a command decodes to the command: its four fields are read back, and the opcode picks the arm. -/
theorem decode_encode (i : Instr) : decode (encode i) = .instr i := by
  cases i <;>
    simp [decode, encode, decodedIf, Laws.opField_packWord, Laws.rsvField_packWord, aField_packWord, bField_packWord]

end Sys2Proof
end

section
/-! PROOFS. Offered commands take effect as their sequential composition, for a host that takes each response at once
and for one that takes it late (20_memory.md R45; 30_encoding.md R50; 70_reset_and_hazards.md R135). -/

namespace Sys2Proof.Machine

/-! ### A host that turns to the response port: what it does commutes with every command of an idle port -/

/-- The host raises `rsp_ready`, so that a waiting byte is delivered, and will do `rest` after it. -/
def State.takesResponse (rest : List HostEvent) (s : State) : State := State.setRspReady true { s with host := rest }

/-- The outcome with its response taken. -/
def outcomeTaken (rest : List HostEvent) (o : Outcome) : Outcome := andThen o fun t => .next (t.takesResponse rest)

@[simp] theorem outcomeTaken_next (rest : List HostEvent) (s : State) :
    outcomeTaken rest (.next s) = .next (s.takesResponse rest) := rfl
@[simp] theorem outcomeTaken_fault (rest : List HostEvent) (r : Fault) :
    outcomeTaken rest (.fault r) = .fault r := rfl

@[simp] theorem State.startBlock_rspPending (s : State) : s.startBlock.rspPending = s.rspPending := by
  rcases startBlock_cases s with h | h <;> simp [h]

section
variable (rest : List HostEvent) (s : State)

@[simp] theorem State.takesResponse_lanes : (s.takesResponse rest).lanes = s.lanes := by
  simp [State.takesResponse, State.setRspReady]
@[simp] theorem State.takesResponse_rate : (s.takesResponse rest).rate = s.rate := by
  simp [State.takesResponse, State.setRspReady]
@[simp] theorem State.takesResponse_delim : (s.takesResponse rest).delim = s.delim := by
  simp [State.takesResponse, State.setRspReady]
@[simp] theorem State.takesResponse_cursor : (s.takesResponse rest).cursor = s.cursor := by
  simp [State.takesResponse, State.setRspReady]
@[simp] theorem State.takesResponse_fsm : (s.takesResponse rest).fsm = s.fsm := by
  simp [State.takesResponse, State.setRspReady]
@[simp] theorem State.takesResponse_err : (s.takesResponse rest).err = s.err := by
  simp [State.takesResponse, State.setRspReady]
@[simp] theorem State.takesResponse_rspReady : (s.takesResponse rest).rspReady = true := by
  simp [State.takesResponse, State.setRspReady]
@[simp] theorem State.takesResponse_host : (s.takesResponse rest).host = rest := by
  simp [State.takesResponse, State.setRspReady]


/-! Register writes do not touch the port. -/

@[simp] theorem setLanes_takesResponse (A : Lanes) :
    (s.takesResponse rest).setLanes A = (s.setLanes A).takesResponse rest := by
  cases h : s.rspPending <;> simp [State.takesResponse, State.setRspReady, State.deliver, State.setLanes, h]
@[simp] theorem setCursor_takesResponse (c : Byte) :
    (s.takesResponse rest).setCursor c = (s.setCursor c).takesResponse rest := by
  cases h : s.rspPending <;> simp [State.takesResponse, State.setRspReady, State.deliver, State.setCursor, h]
@[simp] theorem setFsm_takesResponse (f : Fsm) :
    (s.takesResponse rest).setFsm f = (s.setFsm f).takesResponse rest := by
  cases h : s.rspPending <;> simp [State.takesResponse, State.setRspReady, State.deliver, State.setFsm, h]
@[simp] theorem setError_takesResponse (code : ErrCode) :
    (s.takesResponse rest).setError code = (s.setError code).takesResponse rest := by
  cases h : s.rspPending <;> simp [State.takesResponse, State.setRspReady, State.deliver, State.setError, h]
@[simp] theorem configure_takesResponse (rate delim : Byte) :
    (s.takesResponse rest).configure rate delim = (s.configure rate delim).takesResponse rest := by
  cases h : s.rspPending <;> simp [State.takesResponse, State.setRspReady, State.deliver, State.configure, h]
@[simp] theorem freeRound_takesResponse : (s.takesResponse rest).freeRound = s.freeRound.takesResponse rest := by
  cases h : s.rspPending <;> simp [State.takesResponse, State.setRspReady, State.deliver, State.freeRound, h]
@[simp] theorem permute_takesResponse : (s.takesResponse rest).permute = s.permute.takesResponse rest := by
  simp [State.permute]

@[simp] theorem advanceAbsorb_takesResponse :
    (s.takesResponse rest).advanceAbsorb = s.advanceAbsorb.takesResponse rest := by
  by_cases hfull : s.cursor + 1 = s.rate
  · rw [advanceAbsorb_full hfull, advanceAbsorb_full (by simpa using hfull)]
    simp
  · rw [advanceAbsorb_room hfull, advanceAbsorb_room (by simpa using hfull)]
    simp

@[simp] theorem startBlock_takesResponse :
    (s.takesResponse rest).startBlock = s.startBlock.takesResponse rest := by
  by_cases hused : s.cursor = s.rate
  · rw [startBlock_used hused, startBlock_used (by simpa using hused)]
    simp
  · rw [startBlock_unused hused, startBlock_unused (by simpa using hused)]

theorem xorByte_takesResponse (k v : Byte) :
    (s.takesResponse rest).xorByte k v = outcomeTaken rest (s.xorByte k v) := by
  unfold State.xorByte
  cases byteIndex k <;> simp

theorem andThen_outcomeTaken (o : Outcome) {f : State → Outcome}
    (hf : ∀ t : State, f (t.takesResponse rest) = outcomeTaken rest (f t)) :
    andThen (outcomeTaken rest o) f = outcomeTaken rest (andThen o f) := by
  cases o with
  | next t => exact hf t
  | fault r => rfl
  | refused r => rfl

end

/-- Where no byte waits, only the pin and the list are written. -/
theorem takesResponse_idle (rest : List HostEvent) {s : State} (hidle : s.rspPending = none) :
    s.takesResponse rest = { s with host := rest, rspReady := true } := by
  simp [State.takesResponse, State.setRspReady, State.deliver, hidle]

section
variable {rest : List HostEvent} {s : State} (hidle : s.rspPending = none)
include hidle

/-- Whether the host takes the byte at once or later, it is the same byte delivered (R50). -/
theorem emit_takesResponse (b : Byte) : (s.takesResponse rest).emit b = (s.emit b).takesResponse rest := by
  cases hready : s.rspReady <;>
    simp [State.takesResponse, State.setRspReady, State.emit, State.deliver, hidle, hready]

theorem emitZeroIf_takesResponse (r : Bool) :
    (s.takesResponse rest).emitZeroIf r = (s.emitZeroIf r).takesResponse rest := by
  cases r
  · rfl
  · exact emit_takesResponse hidle 0x00

theorem emitByte_takesResponse (k : Byte) {f : State → State}
    (hf : ∀ t : State, f (t.takesResponse rest) = (f t).takesResponse rest) :
    (s.takesResponse rest).emitByte k f = outcomeTaken rest (s.emitByte k f) := by
  unfold State.emitByte
  cases byteIndex k with
  | none => rfl
  | some index => simp [emit_takesResponse hidle, hf]

theorem raiseError_takesResponse (r : Bool) (code : ErrCode) :
    raiseError r code (s.takesResponse rest) = outcomeTaken rest (raiseError r code s) := by
  have hidleError : (s.setError code).rspPending = none := hidle
  simp [raiseError, emitZeroIf_takesResponse hidleError]

theorem unlessLocked_takesResponse {r : Bool} {o o' : Outcome} (hbody : o' = outcomeTaken rest o) :
    unlessLocked r (s.takesResponse rest) o' = outcomeTaken rest (unlessLocked r s o) := by
  cases herr : s.err
  · rw [unlessLocked_open herr, unlessLocked_open (by simpa using herr), hbody]
  · rw [unlessLocked_locked herr, unlessLocked_locked (by simpa using herr), emitZeroIf_takesResponse hidle,
      outcomeTaken_next]

/-- The shape of ABSORB, FINALIZE and SQUEEZE: a body in one FSM state, BAD_STATE in the others. -/
theorem inState_takesResponse {r : Bool} {f : Fsm} {o o' : Outcome} (hbody : o' = outcomeTaken rest o) :
    (if (s.takesResponse rest).fsm = f then o' else raiseError r .badState (s.takesResponse rest)) =
      outcomeTaken rest (if s.fsm = f then o else raiseError r .badState s) := by
  rw [State.takesResponse_fsm]
  split
  · exact hbody
  · exact raiseError_takesResponse hidle r .badState

/-- A command run after the host has turned to an idle port leaves what the host makes of the command's result. -/
theorem exec_takesResponse (i : Instr) : exec i (s.takesResponse rest) = outcomeTaken rest (exec i s) := by
  cases i with
  | nop => exact unlessLocked_takesResponse hidle rfl
  | init rate delim =>
    refine unlessLocked_takesResponse hidle ?_
    cases rateLegal rate
    · exact raiseError_takesResponse hidle false .badRate
    · simp
  | absorb data =>
    refine unlessLocked_takesResponse hidle (inState_takesResponse hidle ?_)
    rw [State.takesResponse_cursor, xorByte_takesResponse]
    exact andThen_outcomeTaken rest _ fun t => by simp
  | finalize =>
    refine unlessLocked_takesResponse hidle (inState_takesResponse hidle ?_)
    rw [State.takesResponse_cursor, State.takesResponse_delim, xorByte_takesResponse]
    refine andThen_outcomeTaken rest _ fun t => ?_
    rw [State.takesResponse_rate, xorByte_takesResponse]
    exact andThen_outcomeTaken rest _ fun u => by simp
  | squeeze =>
    refine unlessLocked_takesResponse hidle (inState_takesResponse hidle ?_)
    have hidleBlock : s.startBlock.rspPending = none := by simpa using hidle
    rw [startBlock_takesResponse, State.takesResponse_cursor]
    exact emitByte_takesResponse hidleBlock _ fun t => by simp
  | permute => exact unlessLocked_takesResponse hidle (by simp)
  | peek index =>
    refine unlessLocked_takesResponse hidle ?_
    by_cases hindex : index.toNat > 199
    · rw [if_pos hindex, if_pos hindex, raiseError_takesResponse hidle]
    · rw [if_neg hindex, if_neg hindex]
      exact emitByte_takesResponse hidle _ fun t => rfl

end

/-! ### Runs -/

/-- A run of the machine, said of its states and outcomes by their own names. -/
def runSteps (n : Nat) (s : State) : Outcome := Sys2Proof.core.run n s

theorem runSteps_succ (n : Nat) (s : State) : runSteps (n + 1) s = andThen (step s) (runSteps n) := by
  have hcore : Sys2Proof.core.step s = step s := rfl
  simp only [runSteps, Host.Core.run, hcore]
  cases step s <;> rfl

/-- A run goes on from the state its first step leaves. -/
theorem runSteps_of_step {n : Nat} {s t : State} (h : step s = .next t) : runSteps (n + 1) s = runSteps n t := by
  rw [runSteps_succ, h, andThen_next]

/-- The next step runs the command offered first (R49). -/
theorem step_offeredCommand {s : State} {i : Instr} {rest : List HostEvent}
    (hhost : s.host = .command (encode i) :: rest) (hbusy : s.busy = false) :
    step s = exec i { s with host := rest } := by
  rw [step_offered (.inl hhost) hbusy, acceptWord_of_decode (decode_encode i)]

/-- A level of `rsp_ready` is served by driving the pin (R50). -/
theorem step_rspReady {s : State} {level : Bool} {rest : List HostEvent}
    (hhost : s.host = .rspReady level :: rest) :
    step s = .next (State.setRspReady level { s with host := rest }) := by
  simp only [step, hhost, serveEvent]

/-- The port is idle exactly when its invariant holds and the host takes responses. -/
theorem portIdle_iff {s : State} : PortIdle s ↔ PortInv s ∧ s.rspReady = true := by
  unfold PortIdle PortInv
  cases s.busy <;> cases s.rspPending <;> cases s.rspReady <;> simp

/-- No command changes what its host does next, nor the pin. -/
theorem exec_keeps_host {i : Instr} {s t : State} (h : exec i s = .next t) :
    t.host = s.host ∧ t.rspReady = s.rspReady := by
  obtain ⟨⟨hhost, hready, -⟩, -⟩ := commandsKeepTheirFrame i s t h
  exact ⟨hhost, hready⟩

/-- With a host that takes responses, a command leaves the port idle. -/
theorem exec_keeps_portIdle {i : Instr} {s t : State} (h : exec i s = .next t) (hidle : PortIdle s) : PortIdle t := by
  obtain ⟨hinv, hready⟩ := portIdle_iff.mp hidle
  exact portIdle_iff.mpr ⟨exec_keeps_portInv h hinv, (exec_keeps_host h).2.trans hready⟩

/-! ### The prompt host -/

/-- On an idle port with the pin high, the host's turn is a change of its list. -/
theorem takesResponse_portIdle (rest : List HostEvent) {s : State} (hidle : PortIdle s) :
    s.takesResponse rest = { s with host := rest } := by
  obtain ⟨-, hpending, hready⟩ := hidle
  rw [takesResponse_idle rest hpending, ← hready]

/-- Settles O47: by induction on the commands; what the host offers next does not matter to a command. -/
theorem offeredCommandsComposeInOrder : Obligations.OfferedCommandsComposeInOrder := by
  intro is
  induction is with
  | nil =>
    intro s hhost _
    have hsame : s = { s with host := [] } := by cases s; cases hhost; rfl
    exact congrArg Host.Outcome.next hsame
  | cons i is ih =>
    intro s hhost hidle
    have hfirst : s.host = .command (encode i) :: offers is := hhost
    have hidleRest : PortIdle { s with host := offers is } := hidle
    have hcleared : ({ s with host := [] } : State) = State.takesResponse [] { s with host := offers is } :=
      (takesResponse_portIdle [] hidleRest).symm
    change runSteps (is.length + 1) s = _
    rw [runSteps_succ, step_offeredCommand hfirst hidle.1, runCommands, hcleared, exec_takesResponse hidleRest.2.1]
    cases h : exec i { s with host := offers is } with
    | next t =>
      have hidleNext := exec_keeps_portIdle h hidleRest
      rw [outcomeTaken_next, andThen_next, andThen_next, takesResponse_portIdle [] hidleNext]
      exact ih t (exec_keeps_host h).1 hidleNext
    | fault r => rfl
    | refused r => rfl

/-! ### The slow host -/

/-- What the host has planned does not matter to the response it takes. -/
theorem takesResponse_setHost (rest rest' : List HostEvent) (s : State) :
    { s.takesResponse rest with host := rest' } = s.takesResponse rest' := by
  cases h : s.rspPending <;> simp [State.takesResponse, State.setRspReady, State.deliver, h]

/-- Lowering the pin after the response is undone by raising it. -/
theorem takesResponse_raiseAgain (rest rest' : List HostEvent) (s : State) :
    { { s.takesResponse rest with rspReady := false } with host := rest', rspReady := true } =
      s.takesResponse rest' := by
  rw [← takesResponse_setHost rest rest' s, ← State.takesResponse_rspReady rest s]

/-- Once the host has taken a response, its port is idle (R50). -/
theorem portIdle_takesResponse (rest : List HostEvent) {s : State} (hinv : PortInv s) :
    PortIdle (s.takesResponse rest) :=
  portIdle_iff.mpr ⟨portInv_setRspReady true (s := { s with host := rest }) hinv, by simp⟩

/-- With no byte waiting, the level of the pin is all that a drive of it writes. -/
theorem setRspReady_idle (level : Bool) {s : State} (hpending : s.rspPending = none) :
    s.setRspReady level = { s with rspReady := level } := by
  simp [State.setRspReady, State.deliver, hpending]

/-- The two events a slow host has after each command: the response is taken, and the pin is low again. -/
theorem runSteps_slowTurn {n : Nat} {s : State} {rest : List HostEvent}
    (hhost : s.host = .rspReady true :: .rspReady false :: rest) (hinv : PortInv s) :
    runSteps (n + 2) s = runSteps n { s.takesResponse rest with rspReady := false } := by
  have htaken : step s = .next (s.takesResponse (.rspReady false :: rest)) := step_rspReady hhost
  have hidle := portIdle_takesResponse rest hinv
  rw [runSteps_of_step htaken, runSteps_of_step (step_rspReady (State.takesResponse_host _ s)), takesResponse_setHost,
    setRspReady_idle false hidle.2.1]

/-- Settles O56: by induction on the commands; a byte that waits for the two events after its command is the byte that a
prompt host takes (`emit_takesResponse`). -/
theorem slowHostSeesTheSameComposition : Obligations.SlowHostSeesTheSameComposition := by
  intro is
  induction is with
  | nil =>
    intro s hhost _ _ hready
    have hsame : s = { s with host := [], rspReady := false } := by cases s; cases hhost; cases hready; rfl
    exact congrArg Host.Outcome.next hsame
  | cons i is ih =>
    intro s hhost hbusy hpending hready
    have hfirst : s.host = .command (encode i) :: .rspReady true :: .rspReady false :: slowHost is := hhost
    have hinv : PortInv s := ⟨by simp [hbusy, hpending], by simp [hbusy]⟩
    change runSteps (3 * is.length + 2 + 1) s = _
    rw [runSteps_succ, step_offeredCommand hfirst hbusy, runCommands]
    generalize hrest : HostEvent.rspReady true :: .rspReady false :: slowHost is = rest
    have hpendingRest : ({ s with host := rest } : State).rspPending = none := hpending
    have hprompt := takesResponse_idle [] hpendingRest
    rw [← hprompt, exec_takesResponse hpendingRest]
    cases h : exec i { s with host := rest } with
    | next t =>
      have hinvNext : PortInv t := exec_keeps_portInv h hinv
      have hhostNext : t.host = .rspReady true :: .rspReady false :: slowHost is := by
        rw [(exec_keeps_host h).1, hrest]
      obtain ⟨hbusyNext, hpendingNext, -⟩ := portIdle_takesResponse (slowHost is) hinvNext
      have hrun := ih { t.takesResponse (slowHost is) with rspReady := false } (by simp) hbusyNext hpendingNext rfl
      rw [takesResponse_raiseAgain] at hrun
      rw [outcomeTaken_next, andThen_next, andThen_next, runSteps_slowTurn hhostNext hinvNext]
      exact hrun
    | fault r => rfl
    | refused r => rfl

end Sys2Proof.Machine
end

section
/-! PROOFS. The decoder on all words: the fields make up the word, an accepted word is its command's encoding, and the
rows of the opcode table cover exactly the accepted words (30_encoding.md R52, R57, R58, R60). -/

namespace Sys2Proof

/-- Settles O11: `decode_encode` reads the fields back command by command. -/
theorem decodeOfEncodeIsIdentity : Obligations.DecodeOfEncodeIsIdentity := decode_encode

/-! ### A word is its four fields (R52) -/

theorem word_eq_fields (w : Word) : w = opField w ++ rsvField w ++ bField w ++ aField w := by
  simp only [opField, rsvField, bField, aField]
  repeat rw [BitVec.extractLsb'_append_extractLsb'_eq_extractLsb' (by decide)]
  exact BitVec.extractLsb'_eq_self.symm

/-- Words that agree on OP, RSV, B and A agree. -/
theorem word_ext_iff {v w : Word} :
    v = w ↔ opField v = opField w ∧ rsvField v = rsvField w ∧ bField v = bField w ∧ aField v = aField w := by
  refine ⟨fun h => h ▸ ⟨rfl, rfl, rfl, rfl⟩, fun ⟨hop, hrsv, hb, ha⟩ => ?_⟩
  rw [word_eq_fields v, word_eq_fields w, hop, hrsv, hb, ha]

/-- The words that a packing of fields gives. -/
theorem packWord_eq_iff {op : BitVec 4} {b a : Byte} {w : Word} :
    packWord op b a = w ↔ opField w = op ∧ rsvField w = 0 ∧ bField w = b ∧ aField w = a := by
  rw [eq_comm, word_ext_iff, Laws.opField_packWord, Laws.rsvField_packWord, bField_packWord, aField_packWord]

theorem opField_toNat (w : Word) : (opField w).toNat = (w >>> 28).toNat := by
  have hlt : w.toNat < 2 ^ 32 := w.isLt
  simp only [opField, BitVec.extractLsb'_toNat, BitVec.toNat_ushiftRight, Nat.shiftRight_eq_div_pow]
  omega

/-! ### What the decoder answers -/

theorem decodedIf_eq_instr {ok : Bool} {i j : Instr} : decodedIf ok i = .instr j ↔ ok = true ∧ i = j := by
  cases ok <;> simp [decodedIf]

theorem decodedIf_ne_illegal (ok : Bool) (i : Instr) : decodedIf ok i ≠ .illegal := by
  cases ok <;> simp [decodedIf]

/-- R58: the decoder answers Illegal exactly for OP 0x7 to 0xF. -/
theorem decode_eq_illegal_iff {w : Word} : decode w = .illegal ↔ 7 ≤ (opField w).toNat := by
  unfold decode
  by_cases hop : 7 ≤ (opField w).toNat
  · simp [hop]
  · rw [if_neg hop]
    refine iff_of_false ?_ hop
    split
    · simp
    · split
      case h_2 => simp
      case h_8 => grind
      all_goals exact decodedIf_ne_illegal _ _

/-- Every accepted word is its command's encoding: RSV is zero, and each arm checks the fields its command has no
operand in. -/
theorem encode_of_decode {w : Word} {i : Instr} (h : decode w = .instr i) : encode i = w := by
  unfold decode at h
  split at h
  · cases h
  split at h
  · cases h
  next hrsv =>
  replace hrsv := not_not.mp hrsv
  have hop {op : BitVec 4} (hnat : (opField w).toNat = op.toNat) : opField w = op := BitVec.eq_of_toNat_eq hnat
  split at h
  case h_2 hnat =>
    cases h
    exact packWord_eq_iff.mpr ⟨hop hnat, hrsv, rfl, rfl⟩
  case h_8 => cases h
  case h_3 hnat | h_7 hnat =>
    obtain ⟨hb, rfl⟩ := decodedIf_eq_instr.mp h
    exact packWord_eq_iff.mpr ⟨hop hnat, hrsv, by simpa using hb, rfl⟩
  all_goals
    obtain ⟨hzero, rfl⟩ := decodedIf_eq_instr.mp h
    obtain ⟨ha, hb⟩ : aField w = 0 ∧ bField w = 0 := by simpa using hzero
    exact packWord_eq_iff.mpr ⟨hop ‹_›, hrsv, hb, ha⟩

/-- Decoding and encoding are inverse on the accepted words. -/
theorem decode_eq_instr_iff {w : Word} {i : Instr} : decode w = .instr i ↔ encode i = w :=
  ⟨encode_of_decode, fun h => h ▸ decode_encode i⟩

/-- Settles O12: `encode_of_decode`, read off the decoder's arms. -/
theorem acceptedWordIsItsEncoding : Obligations.AcceptedWordIsItsEncoding := fun _ _ => encode_of_decode

/-- What is neither Illegal nor a command's word is Reserved. -/
theorem decode_eq_reserved {w : Word} (hop : (opField w).toNat < 7) (hnone : ∀ i, encode i ≠ w) :
    decode w = .reserved := by
  cases h : decode w with
  | instr i => exact absurd (encode_of_decode h) (hnone i)
  | reserved => rfl
  | illegal => exact absurd (decode_eq_illegal_iff.mp h) (Nat.not_le.mpr hop)

/-! ### The rows of the opcode table (R60) -/

theorem covers_iff_fields {row : OpcodeRow} {w : Word} :
    row.covers w = true ↔
      opField w &&& opField row.mask = opField row.pattern ∧ rsvField w &&& rsvField row.mask = rsvField row.pattern ∧
      bField w &&& bField row.mask = bField row.pattern ∧ aField w &&& aField row.mask = aField row.pattern := by
  simp only [OpcodeRow.covers, beq_iff_eq, word_ext_iff, opField, rsvField, bField, aField, BitVec.extractLsb'_and]

section
variable {name : String} {op : BitVec 4} {w : Word}

theorem covers_iff_of_noOperand :
    OpcodeRow.covers ⟨name, packWord op 0#8 0#8, 0xFFFFFFFF#32⟩ w = true ↔ packWord op 0 0 = w := by
  have hmask : w &&& 0xFFFFFFFF#32 = w := BitVec.and_allOnes
  simp only [OpcodeRow.covers, hmask, beq_iff_eq]
  exact eq_comm

theorem covers_iff_of_oneOperand :
    OpcodeRow.covers ⟨name, packWord op 0#8 0#8, 0xFFFFFF00#32⟩ w = true ↔ packWord op 0 (aField w) = w := by
  have hop : opField w &&& opField 0xFFFFFF00#32 = opField w := BitVec.and_allOnes
  have hrsv : rsvField w &&& rsvField 0xFFFFFF00#32 = rsvField w := BitVec.and_allOnes
  have hb : bField w &&& bField 0xFFFFFF00#32 = bField w := BitVec.and_allOnes
  have ha : aField w &&& aField 0xFFFFFF00#32 = 0#8 := BitVec.and_zero
  simp [covers_iff_fields, packWord_eq_iff, hop, hrsv, hb, ha, Laws.opField_packWord, Laws.rsvField_packWord,
    aField_packWord, bField_packWord]

theorem covers_iff_of_twoOperands :
    OpcodeRow.covers ⟨name, packWord op 0#8 0#8, 0xFFFF0000#32⟩ w = true ↔ packWord op (bField w) (aField w) = w := by
  have hop : opField w &&& opField 0xFFFF0000#32 = opField w := BitVec.and_allOnes
  have hrsv : rsvField w &&& rsvField 0xFFFF0000#32 = rsvField w := BitVec.and_allOnes
  have hb : bField w &&& bField 0xFFFF0000#32 = 0#8 := BitVec.and_zero
  have ha : aField w &&& aField 0xFFFF0000#32 = 0#8 := BitVec.and_zero
  simp [covers_iff_fields, packWord_eq_iff, hop, hrsv, hb, ha, Laws.opField_packWord, Laws.rsvField_packWord,
    aField_packWord, bField_packWord]

end

/-- The table's patterns, as words packed from an opcode. -/
theorem opcodeRows_eq_packed : opcodeRows =
    [⟨"NOP", packWord 0x0 0 0, 0xFFFFFFFF⟩, ⟨"INIT", packWord 0x1 0 0, 0xFFFF0000⟩,
     ⟨"ABSORB", packWord 0x2 0 0, 0xFFFFFF00⟩, ⟨"FINALIZE", packWord 0x3 0 0, 0xFFFFFFFF⟩,
     ⟨"SQUEEZE", packWord 0x4 0 0, 0xFFFFFFFF⟩, ⟨"PERMUTE", packWord 0x5 0 0, 0xFFFFFFFF⟩,
     ⟨"PEEK", packWord 0x6 0 0, 0xFFFFFF00⟩] := by decide

/-- The word of a command is covered by the row of its mnemonic alone. -/
theorem rows_covering_encode (i : Instr) :
    (opcodeRows.filter (·.covers (encode i))).map (·.mnemonic) = [i.mnemonic] := by
  cases i <;> simp [opcodeRows_eq_packed, covers_iff_of_noOperand, covers_iff_of_oneOperand,
    covers_iff_of_twoOperands, encode, Instr.mnemonic, packWord_eq_iff, Laws.opField_packWord, Laws.rsvField_packWord,
    aField_packWord, bField_packWord]

/-- A word that a row covers is a command's word: the row fixes all fields but the command's operands. -/
theorem exists_encode_of_covers {row : OpcodeRow} {w : Word} (hrow : row ∈ opcodeRows) (hcovers : row.covers w = true) :
    ∃ i, encode i = w := by
  simp only [opcodeRows_eq_packed, List.mem_cons, List.not_mem_nil, or_false] at hrow
  obtain rfl | rfl | rfl | rfl | rfl | rfl | rfl := hrow
  · exact ⟨.nop, covers_iff_of_noOperand.mp hcovers⟩
  · exact ⟨.init _ _, covers_iff_of_twoOperands.mp hcovers⟩
  · exact ⟨.absorb _, covers_iff_of_oneOperand.mp hcovers⟩
  · exact ⟨.finalize, covers_iff_of_noOperand.mp hcovers⟩
  · exact ⟨.squeeze, covers_iff_of_noOperand.mp hcovers⟩
  · exact ⟨.permute, covers_iff_of_noOperand.mp hcovers⟩
  · exact ⟨.peek _, covers_iff_of_oneOperand.mp hcovers⟩

/-- R57, R60: the decoder answers Reserved exactly for the words of OP 0x0 to 0x6 that no row covers. -/
theorem decode_eq_reserved_iff {w : Word} :
    decode w = .reserved ↔ (opField w).toNat < 7 ∧ opcodeRows.all (fun row => !row.covers w) = true := by
  simp only [List.all_eq_true, Bool.not_eq_true', Bool.eq_false_iff]
  constructor
  · intro h
    refine ⟨Nat.not_le.mp fun hop => ?_, fun row hrow hcovers => ?_⟩
    · cases h.symm.trans (decode_eq_illegal_iff.mpr hop)
    · obtain ⟨i, hi⟩ := exists_encode_of_covers hrow hcovers
      cases h.symm.trans (decode_eq_instr_iff.mpr hi)
  · rintro ⟨hop, hnone⟩
    refine decode_eq_reserved hop fun i hi => ?_
    have hrow : opcodeRows.filter (·.covers w) = [] := List.filter_eq_nil_iff.mpr hnone
    have hone := rows_covering_encode i
    rw [hi, hrow] at hone
    cases hone

end Sys2Proof
end

section
/-! PROOFS. The words the decoder rejects: their errors, and the byte that some of them give (30_encoding.md R57, R58;
60_exceptions.md R114, R115, R118). -/

namespace Sys2Proof.Machine

theorem acceptWord_of_reserved {w : Word} (h : decode w = .reserved) (s : State) :
    acceptWord w s = rejectWord (wordResponds w) .reservedField s := by
  simp [acceptWord, h]

theorem acceptWord_of_illegal {w : Word} (h : decode w = .illegal) (s : State) :
    acceptWord w s = rejectWord false .illegalOpcode s := by
  simp [acceptWord, h]

theorem emit_eq_responded (b : Byte) (s : State) : s.emit b = responded b s := by
  cases hready : s.rspReady
  · simp [emit_waiting b hready, responded, hready]
  · simp [emit_ready b hready, responded, hready]

theorem setError_eq_errored (code : ErrCode) (s : State) : s.setError code = errored code s := rfl

/-- A rejected word of OP 0x4 or 0x6 gives the byte 0x00, another none (log entry 3). -/
theorem emitZeroIf_wordResponds (w : Word) (s : State) :
    (opField w = 4 ∨ opField w = 6 → s.emitZeroIf (wordResponds w) = responded 0 s) ∧
      (opField w ≠ 4 → opField w ≠ 6 → s.emitZeroIf (wordResponds w) = s) := by
  constructor
  · intro hresponds
    have hbyte : wordResponds w = true := by simpa [wordResponds] using hresponds
    rw [hbyte, emitZeroIf_true, emit_eq_responded]
  · intro h4 h6
    have hnone : wordResponds w = false := by simpa [wordResponds] using And.intro h4 h6
    rw [hnone, emitZeroIf_false]

/-- Settles O10: the decoder's three answers against the table's rows, and the error of each rejection. -/
theorem decoderFollowsMatchAndMask : Obligations.DecoderFollowsMatchAndMask := by
  refine ⟨fun w => ?_, fun w => ?_, fun w i h => ?_, fun w i h rate delim => ⟨?_, ?_⟩, fun w s hopen => ⟨?_, ?_⟩⟩
  · rw [← opField_toNat, decode_eq_illegal_iff]
  · rw [← opField_toNat, decode_eq_reserved_iff]
  · rw [← encode_of_decode h, rows_covering_encode]
  · rintro rfl
    obtain ⟨-, -, hb, ha⟩ := packWord_eq_iff.mp (encode_of_decode h)
    exact ⟨ha.symm, hb.symm⟩
  · rintro (rfl | rfl)
    all_goals
      obtain ⟨-, -, -, ha⟩ := packWord_eq_iff.mp (encode_of_decode h)
      exact ha.symm
  · intro h
    exact ⟨_, (acceptWord_of_illegal h s).trans (rejectWord_open hopen), rfl, rfl⟩
  · intro h
    exact ⟨_, (acceptWord_of_reserved h s).trans (rejectWord_open hopen), by simp, by simp⟩

/-- Settles O14: an Illegal word's only effect is its error record. -/
theorem illegalOpcodeRaises : Obligations.IllegalOpcodeRaises := by
  intro w s hop hopen
  rw [acceptWord_of_illegal (decode_eq_illegal_iff.mpr hop), rejectWord_open hopen, emitZeroIf_false,
    setError_eq_errored]

/-- Settles O16: a Reserved word is rejected by its OP field's response, an Illegal one without any. -/
theorem reservedSqueezeAndPeekRespond : Obligations.ReservedSqueezeAndPeekRespond := by
  refine ⟨fun w s hreserved hopen => ?_, fun w s hreserved hlocked => ?_, fun w s hillegal hlocked => ?_⟩
  · simp only [acceptWord_of_reserved hreserved, rejectWord_open hopen, Host.Outcome.next.injEq]
    exact emitZeroIf_wordResponds w (errored .reservedField s)
  · simp only [acceptWord_of_reserved hreserved, rejectWord_locked hlocked, Host.Outcome.next.injEq]
    exact emitZeroIf_wordResponds w s
  · rw [acceptWord_of_illegal hillegal, rejectWord_locked hlocked, emitZeroIf_false]

/-- R57: a word of OP 0x0 to 0x6 is Reserved if RSV is not zero, or B is not zero where the command has no second
operand, or A is not zero where it has no operand. -/
theorem decode_reserved_of_unused {w : Word} (hop : (opField w).toNat < 7)
    (hunused : rsvField w ≠ 0 ∨ (opField w ≠ 1 ∧ bField w ≠ 0) ∨
      ((opField w = 0 ∨ opField w = 3 ∨ opField w = 4 ∨ opField w = 5) ∧ aField w ≠ 0)) :
    decode w = .reserved := by
  refine decode_eq_reserved hop ?_
  rintro i rfl
  cases i <;>
    simp [encode, Laws.opField_packWord, Laws.rsvField_packWord, aField_packWord, bField_packWord] at hunused

/-- Settles O15: such a word is Reserved, and O16 says what a Reserved word does. -/
theorem reservedFieldRaises : Obligations.ReservedFieldRaises := by
  intro w s hop hopen hunused
  obtain ⟨hraises, -, -⟩ := reservedSqueezeAndPeekRespond
  obtain ⟨hresponds, hsilent⟩ := hraises w s (decode_reserved_of_unused hop hunused) hopen
  by_cases h : opField w = 4 ∨ opField w = 6
  · exact ⟨_, hresponds h, .inr ⟨h, rfl⟩⟩
  · obtain ⟨h4, h6⟩ := not_or.mp h
    exact ⟨_, hsilent h4 h6, .inl rfl⟩

/-- Settles O1: a word of OP 0x0 other than 0 is Reserved, since NOP is the one command of OP 0x0. -/
theorem nopChangesNothing : Obligations.NopChangesNothing := by
  refine ⟨fun s => ?_, fun w => decode_eq_instr_iff.trans eq_comm, fun w s hop hne hopen => ?_⟩
  · cases herr : s.err
    · exact unlessLocked_open herr
    · exact unlessLocked_locked herr
  · have hreserved : decode w = .reserved := by
      refine decode_eq_reserved (by simp [hop]) ?_
      rintro i rfl
      cases i with
      | nop => exact hne rfl
      | init | absorb | finalize | squeeze | permute | peek => simp [encode, Laws.opField_packWord] at hop
    obtain ⟨hraises, -, -⟩ := reservedSqueezeAndPeekRespond
    obtain ⟨-, hsilent⟩ := hraises w s hreserved hopen
    exact hsilent (by simp [hop]) (by simp [hop])

end Sys2Proof.Machine
end

section
/-! PROOFS. The bytes of the response port: how many each command gives, and how one waits (30_encoding.md R50;
70_reset_and_hazards.md R135). -/

namespace Sys2Proof.Machine

@[simp] theorem State.startBlock_responses (s : State) : s.startBlock.responses = s.responses := by
  rcases startBlock_cases s with h | h <;> simp [h]

/-- An emit gives exactly one byte, delivered or waiting (R50). -/
theorem emit_gives_one (b : Byte) (s : State) :
    (s.emit b).responses ++ (s.emit b).rspPending.toList = s.responses ++ [b] := by
  cases hready : s.rspReady
  · simp [emit_waiting b hready]
  · simp [emit_ready b hready]

/-- Settles O36: every way for SQUEEZE and PEEK to answer a next state is one emit; the other commands are silent by
their frame. -/
theorem oneResponsePerSqueezeOrPeek : Obligations.OneResponsePerSqueezeOrPeek := by
  intro i s t _ hempty h
  constructor
  · intro hresponds
    obtain ⟨-, rfl⟩ | ⟨-, code, -, rfl⟩ | ⟨-, heffect⟩ := exec_cases h
    · rw [hresponds, emitZeroIf_true]
      exact ⟨_, emit_gives_one 0x00 s⟩
    · rw [hresponds, emitZeroIf_true]
      exact ⟨_, emit_gives_one 0x00 (s.setError code)⟩
    · cases heffect with
      | squeeze hfsm hcursor =>
        exact ⟨_, by simpa using emit_gives_one _ s.startBlock⟩
      | peek hindex => exact ⟨_, emit_gives_one _ s⟩
      | nop | init | absorb | finalize | permute => cases hresponds
  · intro hsilent
    obtain ⟨-, -, -, -, hport⟩ := commandsKeepTheirFrame i s t h
    obtain ⟨hresponses, hpending, -⟩ := hport hsilent
    exact ⟨hresponses, hpending.trans hempty⟩

/-- PEEK of a state byte on an unlocked block emits it (R90). -/
theorem exec_peek_of_index {s : State} (hopen : s.err = false) {index : Byte} (k : Fin 200) (hk : index.toNat = k.val) :
    exec (.peek index) s = .next (s.emit (stateByte s.lanes k)) := by
  have hindex : index.toNat < 200 := hk ▸ k.isLt
  have hlegal : ¬ index.toNat > 199 := by omega
  have hbyte : (⟨index.toNat, hindex⟩ : Fin 200) = k := Fin.ext hk
  change execPeek index s = _
  rw [execPeek, unlessLocked_open hopen, if_neg hlegal, emitByte_of_lt hindex, hbyte, id]

/-- Driving `rsp_ready` low writes the pin only (R50). -/
theorem setRspReady_low (s : State) : s.setRspReady false = { s with rspReady := false } := by
  cases h : s.rspPending <;> simp [State.setRspReady, State.deliver, h]

/-- Settles O35: PEEK's emit with the pin low, then the two levels of the pin while the byte waits. -/
theorem responseWaitsForTheHost : Obligations.ResponseWaitsForTheHost := by
  refine ⟨fun s k j hopen hlow hk => ?_, fun s b rest hhost hbyte => ?_, fun s b rest hhost _ => ?_⟩
  · rw [exec_peek_of_index hopen j hk, emit_waiting _ hlow]
  · rw [step_rspReady hhost]
    exact congrArg Host.Outcome.next (deliver_ready hbyte rfl)
  · rw [step_rspReady hhost, setRspReady_low]

end Sys2Proof.Machine
end

section
/-! PROOFS. The assembler: what it refuses and what it expands to (30_encoding.md R61, R62). -/

namespace Sys2Proof.Machine

/-- A line is assembled exactly under the bounds that its operands' fit comes to (R61). -/
theorem assemble_eq_ite {l : AsmLine} {p : Prop} [Decidable p] (h : l.wellFormed = true ↔ p) :
    assemble l = if p then some (expand l) else none := if_congr h rfl rfl

/-- ABSORBS is refused exactly when its first byte or the rest of its bytes is (R62). -/
theorem assemble_absorbs_cons (b : AsmByte) (bs : List AsmByte) :
    assemble (.absorbs (b :: bs)) =
      (assemble (.absorb b)).bind fun first => (assemble (.absorbs bs)).map fun more => first ++ more := by
  cases hb : b.wellFormed <;> cases hbs : bs.all AsmByte.wellFormed <;>
    simp [assemble, AsmLine.wellFormed, expand, updateCommands, hb, hbs]

theorem assemble_absorbs (bs : List AsmByte) :
    assemble (.absorbs bs) = (bs.mapM fun b => assemble (.absorb b)).map List.flatten := by
  induction bs with
  | nil => rfl
  | cons b bs ih =>
    rw [assemble_absorbs_cons, ih, List.mapM_cons]
    generalize assemble (.absorb b) = first
    generalize (bs.mapM fun b => assemble (.absorb b)) = more
    cases first <;> cases more <;> rfl

/-- HASH is refused exactly when its INIT or its ABSORBS is (R62). -/
theorem assemble_hash (rate delim : Nat) (bs : List AsmByte) (n : Nat) :
    assemble (.hash rate delim bs n) =
      (assemble (.init rate delim)).bind fun first => (assemble (.absorbs bs)).map fun bytes =>
        first ++ bytes ++ [.finalize] ++ List.replicate n .squeeze := by
  cases hinit : fitsByte rate && fitsByte delim <;> cases hbytes : bs.all AsmByte.wellFormed <;>
    simp [assemble, AsmLine.wellFormed, expand, hashCommands, finalizeCommands, hinit, hbytes]

/-- The digest of a variant is HASH with its rate, delimiter 0x01 and its length (R62, R99). -/
theorem assemble_keccak (v : Variant) (bs : List AsmByte) :
    assemble (.keccak v bs) = assemble (.hash (variantRate v) 0x01 bs (digestLength v)) := by
  cases v <;> rfl

/-- Settles O54: one lemma per kind of line; the numbers' bounds are `AsmLine.wellFormed`'s. -/
theorem assemblerRefusesAndExpands : Obligations.AssemblerRefusesAndExpands :=
  ⟨⟨rfl, rfl, rfl, rfl⟩,
    fun rate delim => assemble_eq_ite (by simp [AsmLine.wellFormed, fitsByte]),
    fun n => assemble_eq_ite (by simp [AsmLine.wellFormed, AsmByte.wellFormed, fitsByte]),
    fun ch => assemble_eq_ite (by simp [AsmLine.wellFormed, AsmByte.wellFormed]),
    fun n => assemble_eq_ite (by simp [AsmLine.wellFormed, fitsByte]),
    assemble_absorbs, fun n => rfl, assemble_hash,
    fun bs => ⟨assemble_keccak .keccak224 bs, assemble_keccak .keccak256 bs, assemble_keccak .keccak384 bs,
      assemble_keccak .keccak512 bs⟩⟩

end Sys2Proof.Machine
end

section
/-! PROOFS. The chip edge by edge refines the command step (30_encoding.md R49, R50; 70_reset_and_hazards.md R135, R138
to R143). -/

namespace Sys2Proof.Machine

/-! ### The latency (R138, R139, R141) -/

theorem permutations_le_one (i : Instr) (s : State) : permutations i s ≤ 1 := by
  have hone (p : Prop) [Decidable p] : (if p then 1 else 0) ≤ 1 := by split <;> omega
  unfold permutations
  split
  · exact Nat.zero_le 1
  · cases i with
    | nop | init | peek => exact Nat.zero_le 1
    | permute => exact Nat.le_refl 1
    | absorb | finalize | squeeze => exact hone _

theorem wordPermutations_le_one (w : Word) (s : State) : wordPermutations w s ≤ 1 := by
  unfold wordPermutations
  cases decode w with
  | instr i => exact permutations_le_one i s
  | reserved | illegal => exact Nat.zero_le 1

theorem latency_of_no_permutation {w : Word} {s : State} (h : wordPermutations w s = 0) :
    latency w s = Config.cmdLatency := by
  simp [latency, h]

theorem latency_of_permutation {w : Word} {s : State} (h : wordPermutations w s ≠ 0) :
    latency w s = Config.cmdLatency + Config.permLatency := by
  have hone : wordPermutations w s = 1 :=
    Nat.le_antisymm (wordPermutations_le_one w s) (Nat.pos_of_ne_zero h)
  simp [latency, hone]

theorem latency_pos (w : Word) (s : State) : 0 < latency w s := by
  unfold latency Config.cmdLatency
  omega

/-! ### A word leaves the pin alone, and the pin high or low makes one difference: whether the byte is taken -/

theorem rejectWord_keeps_host {r : Bool} {code : ErrCode} {s t : State} (h : rejectWord r code s = .next t) :
    t.host = s.host ∧ t.rspReady = s.rspReady := by
  obtain ⟨-, rfl⟩ | ⟨-, rfl⟩ := rejectWord_cases h <;> simp

theorem acceptWord_keeps_host {w : Word} {s t : State} (h : acceptWord w s = .next t) :
    t.host = s.host ∧ t.rspReady = s.rspReady := by
  obtain ⟨i, -, h⟩ | ⟨-, h⟩ | ⟨-, h⟩ := acceptWord_cases h
  · exact exec_keeps_host h
  · exact rejectWord_keeps_host h
  · exact rejectWord_keeps_host h

theorem rejectWord_takesResponse {rest : List HostEvent} {s : State} (hidle : s.rspPending = none) (r : Bool)
    (code : ErrCode) : rejectWord r code (s.takesResponse rest) = outcomeTaken rest (rejectWord r code s) :=
  unlessLocked_takesResponse hidle (raiseError_takesResponse hidle r code)

/-- A word run after the host has turned to an idle port leaves what the host makes of the word's result. -/
theorem acceptWord_takesResponse {rest : List HostEvent} {s : State} (hidle : s.rspPending = none) (w : Word) :
    acceptWord w (s.takesResponse rest) = outcomeTaken rest (acceptWord w s) := by
  unfold acceptWord
  split
  · exact exec_takesResponse hidle _
  · exact rejectWord_takesResponse hidle _ _
  · exact rejectWord_takesResponse hidle _ _

theorem takesResponse_host (s : State) : s.takesResponse s.host = s.setRspReady true := rfl

/-- On an empty port the word with `rsp_ready` 1 leaves what the host's taking makes of the word with `rsp_ready` 0. -/
theorem acceptWord_high_of_low {w : Word} {s u : State} (hidle : s.rspPending = none)
    (h : acceptWord w { s with rspReady := false } = .next u) :
    acceptWord w { s with rspReady := true } = .next (u.setRspReady true) := by
  have hidleLow : ({ s with rspReady := false } : State).rspPending = none := hidle
  have hhigh : ({ s with rspReady := true } : State) = State.takesResponse s.host { s with rspReady := false } :=
    (takesResponse_idle s.host hidleLow).symm
  have hhost : u.host = s.host := (acceptWord_keeps_host h).1
  rw [hhigh, acceptWord_takesResponse hidleLow, h, outcomeTaken_next, ← hhost, takesResponse_host]

/-! ### Runs of edges -/

theorem runEdges_cons {p : Pins} {ps : List Pins} {c d : Chip} (h : edge p c = .next d) :
    runEdges (p :: ps) c = runEdges ps d := by
  simp [runEdges, h]

/-- The chip has no command in progress; its block is s, and `held` is the word the host must hold, if any. -/
structure Chip.Settled (c : Chip) (s : State) (held : Option Word) : Prop where
  work    : c.work = none
  block   : c.block = s
  offered : c.offered = held

theorem Chip.Settled.cmdReady {c : Chip} {s : State} {held : Option Word} (h : c.Settled s held)
    (hbusy : s.busy = false) : c.cmdReady false = true := by
  obtain ⟨hwork, rfl, -⟩ := h
  exact Chip.cmdReady_iff.mpr ⟨hwork, hbusy, rfl⟩

theorem brokenHold_eq_dropsWord {p : Pins} {c : Chip} {held : Option Word} (h : c.offered = held) :
    brokenHold p c = dropsWord p held := by
  rw [brokenHold, h]

theorem keepsHold_cons {held : Option Word} {p : Pins} {ps : List Pins} :
    keepsHold held (p :: ps) = true ↔ dropsWord p held = false ∧ keepsHold (heldWord p) ps = true := by
  simp [keepsHold]

/-- A command in progress that needs as many edges as there are completes at the last of them, and its effect is that of
the command with `rsp_ready` low (R42, R50). -/
theorem runEdges_of_work {w : Word} {u : State} {n : Nat} {ps : List Pins} {c : Chip} (hwork : c.work = some (w, n))
    (hlength : ps.length = n + 1) (hrst : ∀ p ∈ ps, p.rst = false) (hhold : keepsHold c.offered ps = true)
    (haccept : acceptWord w { c.block with rspReady := false } = .next u) :
    ∃ e, runEdges ps c = .next e ∧ e.Settled u (ps.getLast?.bind heldWord) := by
  induction ps generalizing c n with
  | nil => cases hlength
  | cons p ps ih =>
    obtain ⟨hdrops, hholdRest⟩ := keepsHold_cons.mp hhold
    have hrstHead := hrst p List.mem_cons_self
    cases n with
    | zero =>
      obtain rfl : ps = [] := List.length_eq_zero_iff.mp (Nat.succ.inj hlength)
      exact ⟨_, runEdges_cons (edge_of_move hdrops (.complete hrstHead hwork haccept)), rfl, rfl, rfl⟩
    | succ n =>
      have hne : ps ≠ [] := by rintro rfl; cases hlength
      have hlast : (p :: ps).getLast? = ps.getLast? := List.getLast?_cons_of_ne_nil hne
      rw [runEdges_cons (edge_of_move hdrops (.progress hrstHead hwork)), hlast]
      exact ih rfl (Nat.succ.inj hlength) (fun q hq => hrst q (List.mem_cons_of_mem p hq)) hholdRest haccept

/-- A ready chip to which nothing is offered stays as it is, whatever `rsp_ready` does (R127). -/
theorem runEdges_of_ready {u : State} (hbusy : u.busy = false) {qs : List Pins} {e : Chip} (h : e.Settled u none)
    (hqs : ∀ q ∈ qs, q.rst = false ∧ q.cmdValid = false) : ∃ d, runEdges qs e = .next d ∧ d.Settled u none := by
  induction qs generalizing e with
  | nil => exact ⟨e, rfl, h⟩
  | cons q qs ih =>
    obtain ⟨hwork, rfl, hoffered⟩ := h
    obtain ⟨hrst, hvalid⟩ := hqs q List.mem_cons_self
    have hhold : brokenHold q e = false := by rw [brokenHold_eq_dropsWord hoffered, dropsWord]
    rw [runEdges_cons (edge_of_move hhold (.idle hrst hwork hbusy hvalid))]
    exact ih ⟨rfl, rfl, by simp [Chip.after, heldWord, hvalid]⟩ fun r hr => hqs r (List.mem_cons_of_mem q hr)

/-- A waiting response stays for any number of edges with `rsp_ready` 0 and is taken at the next edge with `rsp_ready` 1
(R50, R135). -/
theorem runEdges_of_waiting {u : State} (hbusy : u.busy = true) (hlow : u.rspReady = false) {qs : List Pins} {p : Pins}
    {e : Chip} {held : Option Word} (h : e.Settled u held) (hqs : ∀ q ∈ qs, q.rst = false ∧ q.rspReady = false)
    (hrst : p.rst = false) (hready : p.rspReady = true) (hhold : keepsHold held (qs ++ [p]) = true) :
    ∃ d, runEdges (qs ++ [p]) e = .next d ∧ d.Settled (u.setRspReady true) (heldWord p) := by
  induction qs generalizing e held with
  | nil =>
    obtain ⟨hwork, rfl, rfl⟩ := h
    obtain ⟨hdrops, -⟩ := keepsHold_cons.mp hhold
    refine ⟨_, runEdges_cons (edge_of_move hdrops (.wait hrst hwork hbusy)), rfl, ?_, rfl⟩
    rw [hready]
    rfl
  | cons q qs ih =>
    obtain ⟨hwork, rfl, rfl⟩ := h
    obtain ⟨hrstHead, hlowHead⟩ := hqs q List.mem_cons_self
    obtain ⟨hdrops, hholdRest⟩ := keepsHold_cons.mp hhold
    have hstay : e.block.setRspReady q.rspReady = e.block := by
      rw [hlowHead, setRspReady_low, ← hlow]
    rw [List.cons_append, runEdges_cons (edge_of_move hdrops (.wait hrstHead hwork hbusy))]
    exact ih ⟨rfl, hstay, rfl⟩ (fun r hr => hqs r (List.mem_cons_of_mem q hr)) hholdRest

/-- A ready chip accepts a word, one it has been holding too, and completes it after the word's latency. -/
theorem runEdges_of_accepted {w : Word} {c : Chip} {level : Bool} {ps : List Pins} {u : State}
    (hwork : c.work = none) (hoffered : c.offered = none ∨ c.offered = some w) (hbusy : c.block.busy = false)
    (hrst : ∀ p ∈ ps, p.rst = false) (hhold : keepsHold none ps = true) (hlength : ps.length = latency w c.block)
    (haccept : acceptWord w { c.block with rspReady := false } = .next u) :
    ∃ e, runEdges (⟨false, true, w, level⟩ :: ps) c = .next e ∧ e.Settled u (ps.getLast?.bind heldWord) := by
  have hkept : brokenHold ⟨false, true, w, level⟩ c = false := by
    rcases hoffered with h | h <;> simp [brokenHold, h, dropsWord]
  have hedges : ps.length = latency w c.block - 1 + 1 :=
    hlength.trans (Nat.sub_add_cancel (latency_pos w c.block)).symm
  rw [runEdges_cons (edge_of_move hkept (.accept rfl hwork hbusy rfl))]
  exact runEdges_of_work rfl hedges hrst hhold haccept

/-- Settles O38: accepted and completed with `rsp_ready` low (u); then a chip without a response is ready, and one with
a response waits, and taking it leaves what the step with `rsp_ready` high leaves (`acceptWord_high_of_low`). -/
theorem clockedBlockRefinesStep : Obligations.ClockedBlockRefinesStep := by
  intro w c level ps hwork hoffered hbusy hinv hrst hhold hlength
  have hempty : c.block.rspPending = none := by simpa [hbusy] using hinv.port.1
  have hinvLow : BlockInv { c.block with rspReady := false } := ⟨hinv.fsm, hinv.err, hinv.port.1, fun _ => rfl⟩
  obtain ⟨u, hu⟩ := acceptWord_completes w hinvLow.fsm
  have hlow : u.rspReady = false := (acceptWord_keeps_host hu).2
  have hport : PortInv u := (acceptWord_keeps_blockInv hu hinvLow).port
  obtain ⟨e, hrun, hsettled⟩ := runEdges_of_accepted hwork hoffered hbusy hrst hhold hlength hu
  refine ⟨latency_of_no_permutation, latency_of_permutation, u.setRspReady true, u, e,
    acceptWord_high_of_low hempty hu, hu, hrun, hsettled.work, hsettled.block, hsettled.offered, ?_, ?_⟩
  · intro hready
    have hnone : u.rspPending = none := by simpa [hready] using hport.1
    refine ⟨(setRspReady_idle true hnone).symm, hsettled.cmdReady hready, fun qs hheld hqs => ?_⟩
    obtain ⟨d, hd, hstays⟩ := runEdges_of_ready hready ⟨hsettled.work, hsettled.block, hheld⟩ hqs
    exact ⟨d, hd, hstays.work, hstays.block, hstays.offered, hstays.cmdReady hready⟩
  · intro hwaits qs p hqs hrstLast hreadyLast hkeeps
    obtain ⟨d, hd, htaken⟩ :=
      runEdges_of_waiting hwaits hlow ⟨hsettled.work, hsettled.block, rfl⟩ hqs hrstLast hreadyLast hkeeps
    obtain ⟨hidle, -, -⟩ : PortIdle (u.setRspReady true) := portIdle_takesResponse u.host hport
    exact ⟨d, hd, htaken.work, htaken.block, htaken.offered, htaken.cmdReady hidle⟩

end Sys2Proof.Machine
end

section
/-! PROOFS. The lane file by its coordinates, the tables of rho, pi and iota, and the chain of lane moves
(40_permutation.md R64, R68 to R72, R74). -/

namespace Sys2Proof.Machine

/-! ### The lane file by its coordinates (R64) -/

/-- Every lane has a column and a row. -/
theorem exists_laneIndex (i : Fin 25) : ∃ x y : Fin 5, laneIndex x y = i :=
  ⟨⟨i.val % 5, by omega⟩, ⟨i.val / 5, by omega⟩, Fin.ext (Nat.mod_add_div i.val 5)⟩

theorem getElem_laneIndex (A : Lanes) (x y : Fin 5) : A[laneIndex x y] = laneAt A x y := rfl

/-- Two lane files with the same lanes are equal. -/
theorem lanes_ext {A B : Lanes} (h : ∀ x y, laneAt A x y = laneAt B x y) : A = B := by
  refine Vector.ext fun i hi => ?_
  have hlane : ∀ j : Fin 25, A[j] = B[j] := fun j => by
    obtain ⟨x, y, rfl⟩ := exists_laneIndex j
    exact h x y
  exact hlane ⟨i, hi⟩

@[simp] theorem laneAt_mkLanes (f : Fin 5 → Fin 5 → Lane) (x y : Fin 5) : laneAt (mkLanes f) x y = f x y := by
  fin_cases x <;> fin_cases y <;> rfl

@[simp] theorem getElem_mkColumns (f : Fin 5 → Lane) (x : Fin 5) : (mkColumns f)[x] = f x := by
  fin_cases x <;> rfl

@[simp] theorem laneAt_rho (A : Lanes) (x y : Fin 5) :
    laneAt (rho A) x y = rotl64 (laneAt A x y) rhoOffsets[laneIndex x y] := laneAt_mkLanes _ x y

@[simp] theorem laneAt_piStep (B : Lanes) (x y : Fin 5) : laneAt (piStep B) x y = laneAt B (x + 3 * y) x :=
  laneAt_mkLanes _ x y

/-! ### pi and its two tables (R70) -/

theorem piSource_laneIndex : ∀ x y : Fin 5, piSource[laneIndex x y] = laneIndex (x + 3 * y) x := by decide

theorem piDestination_laneIndex : ∀ x y : Fin 5, piDestination[laneIndex x y] = laneIndex y (2 * x + 3 * y) := by
  decide

/-- pi gathers: each lane comes from its source. -/
theorem piStep_gathers (B : Lanes) (j : Fin 25) : (piStep B)[j] = B[piSource[j]] := by
  obtain ⟨x, y, rfl⟩ := exists_laneIndex j
  simp only [piSource_laneIndex]
  exact laneAt_piStep B x y

/-- pi moves: the lane at (x, y) goes to (y, 2x + 3y). -/
theorem piStep_moves (B : Lanes) (x y : Fin 5) : laneAt (piStep B) y (2 * x + 3 * y) = laneAt B x y := by
  have hback : ∀ x y : Fin 5, y + 3 * (2 * x + 3 * y) = x := by decide
  rw [laneAt_piStep, hback]

/-- pi scatters: each lane goes to its destination. -/
theorem piStep_scatters (B : Lanes) (i : Fin 25) : (piStep B)[piDestination[i]] = B[i] := by
  obtain ⟨x, y, rfl⟩ := exists_laneIndex i
  simp only [piDestination_laneIndex]
  exact piStep_moves B x y

/-- Settles O43: the coordinate map, the two tables, and lane 0, which is its own source. -/
theorem piMovesLanesByTables : Obligations.PiMovesLanesByTables := fun B =>
  ⟨piStep_moves B, piStep_gathers B, piStep_scatters B, piStep_gathers B 0⟩

/-! ### The constant tables (R68, R72) -/

/-- R68: the t-th position of the walk has the offset (t+1)(t+2)/2 mod 64. -/
theorem rhoOffsets_rhoWalk :
    ∀ t : Fin 24, rhoOffsets[laneIndex (rhoWalk t).1 (rhoWalk t).2] = (t.val + 1) * (t.val + 2) / 2 % 64 := by
  decide

theorem rhoOffsets_eq_zero_iff : ∀ i : Fin 25, rhoOffsets[i] = 0 ↔ i = 0 := by decide

theorem rhoOffsets_lt : ∀ i : Fin 25, rhoOffsets[i] < 64 := by decide

/-- The lane with the bits 0, 1, 3, 7, 15, 31 and 63, those of R72. -/
def constantPositions : Lane := 0x800000008000808B

theorem roundConstant_covered : ∀ r : Fin 24, roundConstant r &&& constantPositions = roundConstant r := by decide

theorem bit_of_constantPositions :
    ∀ b : Fin 64, constantPositions.getLsbD b.val = true → ∃ j : Fin 7, b.val + 1 = 2 ^ j.val := by decide

/-- A round constant has bits only at positions 2^j - 1. -/
theorem bit_of_roundConstant (r : Fin 24) (b : Fin 64) (hbit : (roundConstant r).getLsbD b.val = true) :
    ∃ j : Fin 7, b.val + 1 = 2 ^ j.val := by
  rw [← roundConstant_covered r, BitVec.getLsbD_and, Bool.and_eq_true] at hbit
  exact bit_of_constantPositions b hbit.2

/-- Settles O42: the offsets by the walk, their single zero, and the positions of the round constants' bits. -/
theorem constantTablesAsGenerated : Obligations.ConstantTablesAsGenerated :=
  ⟨rhoOffsets_rhoWalk, rhoOffsets_eq_zero_iff, bit_of_roundConstant⟩

/-! ### The chain of lane moves (R74) -/

@[simp] theorem rotl64_zero (v : Lane) : rotl64 v 0 = v := by simp [rotl64, BitVec.ushiftRight_eq_zero]

theorem getElem_rho (A : Lanes) (i : Fin 25) : (rho A)[i] = rotl64 A[i] rhoOffsets[i] := by
  obtain ⟨x, y, rfl⟩ := exists_laneIndex i
  exact laneAt_rho A x y

/-- Two moves follow each other as R74 prints them: the next position is where pi sends this one's lane, and the next
offset is rho's for that lane. -/
def FollowsMove (m m' : Fin 25 × Nat) : Prop := m'.1 = piDestination[m.1] ∧ m'.2 = rhoOffsets[m.1]

/-- The lane saved at one position, rotated by the next offset, is what rho then pi leaves at the next position. -/
theorem rotl64_of_followsMove (A : Lanes) {m m' : Fin 25 × Nat} (h : FollowsMove m m') :
    rotl64 A[m.1] m'.2 = (piStep (rho A))[m'.1] := by
  obtain ⟨hposition, hoffset⟩ := h
  simp only [hposition, hoffset, piStep_scatters, getElem_rho]

/-- A lane file with one lane written, read back. -/
theorem getElem_set_lane (A : Lanes) (i j : Fin 25) (v : Lane) : (A.set i v)[j] = if j = i then v else A[j] := by
  simp [Vector.getElem_set, Fin.ext_iff, eq_comm]

/-- While the lane of position `m` is saved and the positions still to come are untouched, the moves `ms` write at
their positions what rho then pi leaves there, and nothing elsewhere. -/
theorem getElem_foldl_chainMove (A : Lanes) (j : Fin 25) (ms : List (Fin 25 × Nat)) (m : Fin 25 × Nat) (B : Lanes)
    (hchain : List.IsChain FollowsMove (m :: ms)) (hnodup : (ms.map Prod.fst).Nodup)
    (hcoming : ∀ p ∈ ms.map Prod.fst, B[p] = A[p]) :
    (ms.foldl chainMove (B, A[m.1])).1[j] = if j ∈ ms.map Prod.fst then (piStep (rho A))[j] else B[j] := by
  induction ms generalizing m B with
  | nil => simp
  | cons m' ms ih =>
    obtain ⟨hfollows, hrest⟩ := List.isChain_cons_cons.mp hchain
    obtain ⟨hnew, hnodup'⟩ := List.nodup_cons.mp hnodup
    obtain ⟨hsaved, hcoming'⟩ := List.forall_mem_cons.mp hcoming
    have huntouched : ∀ p ∈ ms.map Prod.fst, (B.set m'.1 (rotl64 A[m.1] m'.2))[p] = A[p] := fun p hp => by
      rw [getElem_set_lane, if_neg (ne_of_mem_of_not_mem hp hnew), hcoming' p hp]
    have hmove : chainMove (B, A[m.1]) m' = (B.set m'.1 (rotl64 A[m.1] m'.2), A[m'.1]) := by rw [chainMove, hsaved]
    rw [List.foldl_cons, hmove, ih m' _ hrest hnodup' huntouched, getElem_set_lane, rotl64_of_followsMove A hfollows]
    by_cases hj : j = m'.1
    · simp [hj]
    · simp only [List.map_cons, List.mem_cons, hj, if_false, false_or]

/-- The chain of R74, begun with the lane at position 1, follows pi and rho at every move. -/
theorem chainMoves_follow : List.IsChain FollowsMove ((1, 0) :: chainMoves) := by
  unfold FollowsMove
  decide

/-- It visits no position twice, and leaves out position 0 alone. -/
theorem chainMoves_nodup : (chainMoves.map Prod.fst).Nodup := by decide

theorem mem_chainMoves_iff : ∀ j : Fin 25, j ∈ chainMoves.map Prod.fst ↔ j ≠ 0 := by decide

/-- Lane 0, which the chain leaves out, is kept by rho and by pi. -/
theorem piStep_rho_zero (A : Lanes) : (piStep (rho A))[(0 : Fin 25)] = A[(0 : Fin 25)] :=
  calc (piStep (rho A))[(0 : Fin 25)] = (rho A)[(0 : Fin 25)] := piStep_gathers (rho A) 0
    _ = rotl64 A[(0 : Fin 25)] 0 := getElem_rho A 0
    _ = A[(0 : Fin 25)] := rotl64_zero _

/-- Settles O44: every position but 0 is written by the chain, with what rho then pi leaves there. -/
theorem chainEqualsRhoThenPi : Obligations.ChainEqualsRhoThenPi := by
  intro A
  have hlane (j : Fin 25) : (rhoPiChain A)[j] = (piStep (rho A))[j] := by
    have hchain := getElem_foldl_chainMove A j chainMoves (1, 0) A chainMoves_follow chainMoves_nodup fun _ _ => rfl
    refine hchain.trans ?_
    by_cases hj : j = 0
    · subst hj
      rw [if_neg (by simp [mem_chainMoves_iff]), piStep_rho_zero]
    · rw [if_pos ((mem_chainMoves_iff j).mpr hj)]
  exact Vector.ext fun i hi => hlane ⟨i, hi⟩

end Sys2Proof.Machine
end

section
/-! PROOFS. Keccak-f[1600] is a bijection, since every step of a round is one (40_permutation.md R65 to R76), and the
two facts of R80. -/

namespace Sys2Proof.Machine

/-! ### theta (R65 to R67): its column parities are mixed by an invertible map -/

/-- A bit of a lane rotated by `n` is the bit `n` places below it, modulo 64 (R8). -/
theorem getLsbD_rotl64_fin (v : Lane) (n z : Fin 64) : (rotl64 v n.val).getLsbD z.val = v.getLsbD (z - n).val := by
  have hmoved := rotationMovesBits v n.val (z - n).val n.isLt (z - n).isLt
  rwa [← Fin.val_add, sub_add_cancel] at hmoved

/-- The bits of the five column parities, by column and position. -/
def parityBits (A : Lanes) (g : Fin 5 × Fin 64) : Bool := (thetaParity A)[g.1].getLsbD g.2.val

/-- A plane of bits with its shifts by `a` and by `b` exclusive-ored in: multiplication by 1 + X^a + X^b over the
two-element field. -/
def mixShifts (a b : Fin 5 × Fin 64) (C : Fin 5 × Fin 64 → Bool) (g : Fin 5 × Fin 64) : Bool :=
  C g ^^ (C (g - a) ^^ C (g - b))

/-- Its square mixes the doubled shifts, since the two-element field has characteristic 2. -/
theorem mixShifts_mixShifts (a b : Fin 5 × Fin 64) (C : Fin 5 × Fin 64 → Bool) :
    mixShifts a b (mixShifts a b C) = mixShifts (2 • a) (2 • b) C := by
  funext g
  have hcross : g - b - a = g - a - b := sub_right_comm g b a
  simp only [mixShifts, two_nsmul, ← sub_sub, hcross]
  cases C g <;> cases C (g - a) <;> cases C (g - b) <;> cases C (g - a - b) <;> simp

/-- Mixing 2^k times mixes the shifts multiplied by 2^k. -/
theorem mixShifts_iterate (a b : Fin 5 × Fin 64) (k : ℕ) :
    (mixShifts a b)^[2 ^ k] = mixShifts (2 ^ k • a) (2 ^ k • b) := by
  induction k with
  | zero => simp
  | succ k ih =>
    funext C
    rw [pow_succ, Nat.mul_two, Function.iterate_add_apply, ih, mixShifts_mixShifts, smul_smul, smul_smul,
      ← Nat.mul_two, mul_comm]

/-- Mixing a column with both its neighbours is undone by mixing it with the two other columns:
(1 + x + x^4)(1 + x^2 + x^3) = 1 modulo x^5 - 1 over the two-element field. -/
theorem mixShifts_neighbours_leftInverse :
    Function.LeftInverse (mixShifts (2, 0) (3, 0)) (mixShifts (4, 0) (1, 0)) := by
  intro C
  funext ⟨x, z⟩
  have hcolumns : ∀ x : Fin 5, x - 2 - 4 = x - 1 ∧ x - 2 - 1 = x - 3 ∧ x - 3 - 4 = x - 2 ∧ x - 3 - 1 = x - 4 := by
    decide
  obtain ⟨h24, h21, h34, h31⟩ := hcolumns x
  simp only [mixShifts, Prod.mk_sub_mk, sub_zero, h24, h21, h34, h31]
  cases C (x - 1, z) <;> cases C (x - 2, z) <;> cases C (x - 3, z) <;> cases C (x - 4, z) <;> simp

/-- The theta mix of the parities: its 64th power has no rotation left, and mixes neighbours only. -/
theorem mixShifts_theta_injective : Function.Injective (mixShifts (1, 0) (4, 1)) := by
  have hpower : (mixShifts (1, 0) (4, 1))^[63 + 1] = mixShifts (4, 0) (1, 0) := mixShifts_iterate (1, 0) (4, 1) 6
  rw [Function.iterate_succ] at hpower
  exact Function.Injective.of_comp (f := (mixShifts (1, 0) (4, 1))^[63])
    (hpower ▸ mixShifts_neighbours_leftInverse.injective)

theorem getElem_thetaParity (A : Lanes) (x : Fin 5) : (thetaParity A)[x] =
    laneAt A x 0 ^^^ laneAt A x 1 ^^^ laneAt A x 2 ^^^ laneAt A x 3 ^^^ laneAt A x 4 := getElem_mkColumns _ x

theorem getElem_thetaMix (C : Vector Lane 5) (x : Fin 5) : (thetaMix C)[x] = C[x - 1] ^^^ rotl64 C[x + 1] 1 :=
  getElem_mkColumns _ x

theorem laneAt_theta (A : Lanes) (x y : Fin 5) :
    laneAt (theta A) x y = laneAt A x y ^^^ (thetaMix (thetaParity A))[x] := laneAt_mkLanes _ x y

/-- theta adds its mix to a column five times, so once. -/
theorem thetaParity_theta (A : Lanes) (x : Fin 5) :
    (thetaParity (theta A))[x] = (thetaParity A)[x] ^^^ (thetaMix (thetaParity A))[x] := by
  simp only [getElem_thetaParity (theta A), getElem_thetaParity A x, laneAt_theta]
  generalize (thetaMix (thetaParity A))[x] = d
  grind

theorem parityBits_theta (A : Lanes) : parityBits (theta A) = mixShifts (1, 0) (4, 1) (parityBits A) := by
  funext ⟨x, z⟩
  have hnext : ∀ x : Fin 5, x - 4 = x + 1 := by decide
  have hrot := getLsbD_rotl64_fin (thetaParity A)[x + 1] 1 z
  simp only [parityBits, mixShifts, Prod.mk_sub_mk, sub_zero, hnext, thetaParity_theta, getElem_thetaMix,
    BitVec.getLsbD_xor]
  exact congrArg _ (congrArg _ hrot)

/-- theta is injective: equal images have equal mixed parities, so equal parities, so the same was added to each. -/
theorem theta_injective : Function.Injective theta := by
  intro A B h
  have hbits : parityBits A = parityBits B :=
    mixShifts_theta_injective (by rw [← parityBits_theta, ← parityBits_theta, h])
  have hparity : thetaParity A = thetaParity B := Vector.ext fun x hx =>
    BitVec.eq_of_getLsbD_eq fun z hz => congrFun hbits (⟨x, hx⟩, ⟨z, hz⟩)
  refine lanes_ext fun x y => ?_
  have hlane := congrArg (laneAt · x y) h
  simpa only [laneAt_theta, hparity, BitVec.xor_left_inj] using hlane

/-! ### rho, pi, chi and iota (R69 to R73) -/

theorem rotl64_injective {n : Nat} (hn : n < 64) : Function.Injective (rotl64 · n) := by
  intro v w h
  refine BitVec.eq_of_getLsbD_eq fun i hi => ?_
  have hbit := congrArg (·.getLsbD ((i + n) % 64)) h
  simpa only [rotationMovesBits _ n i hn hi] using hbit

theorem rho_injective : Function.Injective rho := by
  intro A B h
  refine lanes_ext fun x y => rotl64_injective (rhoOffsets_lt (laneIndex x y)) ?_
  simpa only [laneAt_rho] using congrArg (laneAt · x y) h

theorem piStep_injective : Function.Injective piStep := by
  intro A B h
  refine lanes_ext fun x y => ?_
  rw [← piStep_moves A, ← piStep_moves B, h]

/-- What chi leaves of a lane, given the two lanes that follow it in the row. -/
def chiLane (a b c : Lane) : Lane := a ^^^ (~~~b &&& c)

theorem laneAt_chi (B : Lanes) (x y : Fin 5) :
    laneAt (chi B) x y = chiLane (laneAt B x y) (laneAt B (x + 1) y) (laneAt B (x + 2) y) := laneAt_mkLanes _ x y

/-- A lane of a row a, b, c, d, e is computed back from what chi leaves of that row. -/
theorem chiLane_inverse (a b c d e : Lane) :
    chiLane (chiLane a b c) (chiLane b c d) (chiLane (chiLane c d e) (chiLane d e a) (chiLane e a b)) = a := by
  have hbits : ∀ a b c d e : Bool,
      ((a ^^ (!b && c)) ^^
        (!(b ^^ (!c && d)) && ((c ^^ (!d && e)) ^^ (!(d ^^ (!e && a)) && (e ^^ (!a && b)))))) = a := by
    decide
  refine BitVec.eq_of_getLsbD_eq fun i hi => ?_
  simpa [chiLane, hi] using hbits (a.getLsbD i) (b.getLsbD i) (c.getLsbD i) (d.getLsbD i) (e.getLsbD i)

/-- The lanes before chi in terms of the lanes after it. -/
theorem laneAt_of_chi (B : Lanes) (x y : Fin 5) : laneAt B x y =
    chiLane (laneAt (chi B) x y) (laneAt (chi B) (x + 1) y)
      (chiLane (laneAt (chi B) (x + 2) y) (laneAt (chi B) (x + 3) y) (laneAt (chi B) (x + 4) y)) := by
  have hcolumns : ∀ x : Fin 5, x + 1 + 1 = x + 2 ∧ x + 1 + 2 = x + 3 ∧ x + 2 + 1 = x + 3 ∧ x + 2 + 2 = x + 4 ∧
      x + 3 + 1 = x + 4 ∧ x + 3 + 2 = x ∧ x + 4 + 1 = x ∧ x + 4 + 2 = x + 1 := by decide
  obtain ⟨h11, h12, h21, h22, h31, h32, h41, h42⟩ := hcolumns x
  simp only [laneAt_chi, h11, h12, h21, h22, h31, h32, h41, h42, chiLane_inverse]

theorem chi_injective : Function.Injective chi := by
  intro A B h
  refine lanes_ext fun x y => ?_
  rw [laneAt_of_chi A, laneAt_of_chi B, h]

/-- iota undoes itself. -/
theorem iota_involutive (ir : Fin 24) : Function.Involutive (iota · ir) := by
  intro A
  simp [iota]

/-! ### The round and the permutation (R75, R76) -/

theorem keccakRound_injective (ir : Fin 24) : Function.Injective (keccakRound · ir) :=
  (iota_involutive ir).injective.comp
    (chi_injective.comp (piStep_injective.comp (rho_injective.comp theta_injective)))

/-- Any sequence of rounds is injective. -/
theorem foldl_keccakRound_injective (rounds : List (Fin 24)) :
    Function.Injective fun A : Lanes => rounds.foldl keccakRound A := by
  induction rounds with
  | nil => exact Function.injective_id
  | cons ir rounds ih => exact ih.comp (keccakRound_injective ir)

theorem keccakF_injective : Function.Injective keccakF := foldl_keccakRound_injective (List.finRange 24)

/-- There are finitely many lane files: a file is 25 words below 2^64. -/
theorem finite_lanes : Finite Lanes :=
  Finite.of_injective (fun (A : Lanes) (i : Fin 25) => A[i].toFin) fun A B h =>
    Vector.ext fun i hi => BitVec.eq_of_toFin_eq (congrFun h ⟨i, hi⟩)

/-- Settles O45: every step of every round is injective, and on a finite set an injective map is onto. -/
theorem keccakFIsBijective : Obligations.KeccakFIsBijective :=
  haveI := finite_lanes
  Finite.injective_iff_bijective.mp keccakF_injective

/-! ### The two facts of R80 -/

theorem keccakF_zeroLanes_ne : keccakF zeroLanes ≠ zeroLanes := by decide +kernel

/-- Settles O46: the first fact by evaluation; a fixed point at its image would, by injectivity, be one at zero. -/
theorem keccakFOfZeroByEvaluation : Obligations.KeccakFOfZeroByEvaluation :=
  ⟨keccakF_zeroLanes_ne, fun h => keccakF_zeroLanes_ne (keccakF_injective h)⟩

end Sys2Proof.Machine
end

section
/-! PROOFS. The command PERMUTE (40_permutation.md R78; 60_exceptions.md R115). -/

namespace Sys2Proof.Machine

/-- On an unlocked block PERMUTE permutes, in every FSM state. -/
theorem exec_permute_open {s : State} (h : s.err = false) : exec .permute s = .next s.permute := unlessLocked_open h

/-- On a locked block PERMUTE is discarded, with no response byte. -/
theorem exec_permute_locked {s : State} (h : s.err = true) : exec .permute s = .next s := unlessLocked_locked h

/-- PERMUTE is the one command of OP 0x5, so a word of that OP with another bit set is Reserved (R57). -/
theorem decode_reserved_of_permuteBits {w : Word} (hop : opField w = 5) (hbits : w.extractLsb' 0 28 ≠ 0#28) :
    decode w = .reserved := by
  refine decode_eq_reserved (by simp [hop]) ?_
  rintro i rfl
  cases i with
  | permute => exact hbits rfl
  | nop | init | absorb | finalize | squeeze | peek => simp [encode, Laws.opField_packWord] at hop

/-- Settles O6: PERMUTE's encoding, the words it rejects, the lock, and the permuted state. -/
theorem permuteChangesLanesOnly : Obligations.PermuteChangesLanesOnly := by
  refine ⟨fun w => decode_eq_instr_iff.trans eq_comm, fun w s hop hbits hopen => ?_, fun s =>
    ⟨exec_permute_locked, fun hopen => ⟨_, _, exec_permute_open hopen⟩⟩⟩
  obtain ⟨hraises, -, -⟩ := reservedSqueezeAndPeekRespond
  obtain ⟨-, hsilent⟩ := hraises w s (decode_reserved_of_permuteBits hop hbits) hopen
  exact hsilent (by simp [hop]) (by simp [hop])

end Sys2Proof.Machine
end

section
/-! PROOFS. The sponge's commands one at a time: the words that name them, the words of their OP that are rejected, and
the equation of each branch (30_encoding.md R57, R60; 41_sponge.md R81 to R90; 60_exceptions.md R113, R115, R118). -/

namespace Sys2Proof.Machine

/-! ### The words of a command (R57, R60) -/

theorem decode_of_oneOperandRow {op : BitVec 4} {w : Word} {i : Instr} (h : w &&& 0xFFFFFF00 = packWord op 0 0)
    (hi : encode i = packWord op 0 (aField w)) : decode w = .instr i := by
  have hcovers : OpcodeRow.covers ⟨i.mnemonic, packWord op 0 0, 0xFFFFFF00⟩ w = true := beq_iff_eq.mpr h
  exact decode_eq_instr_iff.mpr (hi.trans (covers_iff_of_oneOperand.mp hcovers))

theorem decode_of_twoOperandRow {op : BitVec 4} {w : Word} {i : Instr} (h : w &&& 0xFFFF0000 = packWord op 0 0)
    (hi : encode i = packWord op (bField w) (aField w)) : decode w = .instr i := by
  have hcovers : OpcodeRow.covers ⟨i.mnemonic, packWord op 0 0, 0xFFFF0000⟩ w = true := beq_iff_eq.mpr h
  exact decode_eq_instr_iff.mpr (hi.trans (covers_iff_of_twoOperands.mp hcovers))

/-- RSV and B make up the bits between OP and the first operand. -/
theorem rsvField_append_bField (w : Word) : rsvField w ++ bField w = w.extractLsb' 8 20 :=
  BitVec.extractLsb'_append_extractLsb'_eq_extractLsb' (by decide)

theorem packWord_middle_eq_zero (op : BitVec 4) (a : Byte) : (packWord op 0 a).extractLsb' 8 20 = 0#20 := by
  rw [← rsvField_append_bField, Laws.rsvField_packWord, bField_packWord]
  rfl

/-- No command's word sets a field the command does not use (R57). -/
theorem unusedNonzero_encode (i : Instr) : unusedNonzero (encode i) = false := by
  cases i with
  | nop | finalize | squeeze | permute => rfl
  | init rate delim =>
    simp only [unusedNonzero, encode, Laws.opField_packWord]
    exact bne_eq_false_iff_eq.mpr (Laws.rsvField_packWord 1 delim rate)
  | absorb b | peek b =>
    simp only [unusedNonzero, encode, Laws.opField_packWord]
    exact bne_eq_false_iff_eq.mpr (packWord_middle_eq_zero _ b)

/-- R57: a word of OP 0x0 to 0x6 with an unused field that is not zero is Reserved. -/
theorem decode_reserved_of_unusedNonzero {w : Word} (hop : (opField w).toNat < 7) (h : unusedNonzero w = true) :
    decode w = .reserved := by
  refine decode_eq_reserved hop ?_
  rintro i rfl
  exact absurd h (by simp [unusedNonzero_encode])

theorem acceptWord_of_unusedNonzero {w : Word} {s : State} (hop : (opField w).toNat < 7) (h : unusedNonzero w = true)
    (hopen : s.err = false) :
    acceptWord w s = .next ((s.setError .reservedField).emitZeroIf (wordResponds w)) :=
  (acceptWord_of_reserved (decode_reserved_of_unusedNonzero hop h) s).trans (rejectWord_open hopen)

/-- Of OP other than 0x4 and 0x6 the rejected word records the error and does nothing else (log entry 3). -/
theorem acceptWord_of_unusedNonzero_silent {w : Word} {s : State} (hop : (opField w).toNat < 7)
    (h : unusedNonzero w = true) (hsilent : wordResponds w = false) (hopen : s.err = false) :
    acceptWord w s = .next (errored .reservedField s) := by
  rw [acceptWord_of_unusedNonzero hop h hopen, hsilent, emitZeroIf_false, setError_eq_errored]

/-! ### The lock and the states a command is not for (R81, R113, R115) -/

/-- On a locked block every command is discarded, and answers 0x00 if it has a response (R115). -/
theorem exec_locked {s : State} (i : Instr) (h : s.err = true) : exec i s = .next (s.emitZeroIf (responds i)) := by
  cases i <;> exact unlessLocked_locked h

theorem exec_absorb_badState {s : State} (data : Byte) (hopen : s.err = false) (hfsm : s.fsm ≠ .absorbing) :
    exec (.absorb data) s = .next (s.setError .badState) :=
  (unlessLocked_open hopen).trans (if_neg hfsm)

theorem exec_finalize_badState {s : State} (hopen : s.err = false) (hfsm : s.fsm ≠ .absorbing) :
    exec .finalize s = .next (s.setError .badState) :=
  (unlessLocked_open hopen).trans (if_neg hfsm)

theorem exec_squeeze_badState {s : State} (hopen : s.err = false) (hfsm : s.fsm ≠ .squeezing) :
    exec .squeeze s = .next ((s.setError .badState).emit 0x00) :=
  (unlessLocked_open hopen).trans (if_neg hfsm)

/-! ### INIT (R83) -/

theorem exec_init_legal {rate delim : Byte} {s : State} (hopen : s.err = false) (hlegal : rateLegal rate = true) :
    exec (.init rate delim) s = .next (s.configure rate delim) :=
  (unlessLocked_open hopen).trans (if_pos hlegal)

theorem exec_init_badRate {rate delim : Byte} {s : State} (hopen : s.err = false) (hillegal : rateLegal rate = false) :
    exec (.init rate delim) s = .next (s.setError .badRate) :=
  (unlessLocked_open hopen).trans (if_neg (Bool.not_eq_true _ ▸ hillegal))

/-- Settles O2: the INIT row of the opcode table, and the rate check's two outcomes. -/
theorem initStartsFromZeroState : Obligations.InitStartsFromZeroState := by
  refine ⟨fun w h => decode_of_twoOperandRow (op := 1) h rfl, fun rate delim s =>
    ⟨exec_locked _, fun hopen hrate => ?_, fun hopen hpos hle => ?_⟩⟩
  · refine exec_init_badRate hopen (Bool.eq_false_iff.mpr fun hlegal => ?_)
    obtain ⟨hpos, hle⟩ := rateLegal_iff.mp hlegal
    obtain rfl | hbig := hrate
    · exact absurd hpos (by decide)
    · omega
  · exact exec_init_legal hopen (rateLegal_iff.mpr ⟨hpos, hle⟩)

/-! ### PEEK (R90) -/

theorem exec_peek_badIndex {index : Byte} {s : State} (hopen : s.err = false) (hindex : 199 < index.toNat) :
    exec (.peek index) s = .next ((s.setError .badIndex).emit 0x00) :=
  (unlessLocked_open hopen).trans (if_pos hindex)

/-- Settles O7: the PEEK row of the opcode table, its rejected words, and an emit in each of its three branches. -/
theorem peekReadsAnyByte : Obligations.PeekReadsAnyByte := by
  refine ⟨fun w h => decode_of_oneOperandRow (op := 6) h rfl, fun w s hop hunused hopen =>
    ⟨_, acceptWord_of_unusedNonzero (by simp [hop]) (by simpa [unusedNonzero, hop] using hunused) hopen, by simp,
      by simp⟩, fun index s => ⟨fun hlocked => ?_, fun hopen hindex => ?_, fun hopen k hk => ?_⟩⟩
  · rw [exec_locked _ hlocked, ← emit_eq_responded]
    rfl
  · rw [exec_peek_badIndex hopen hindex, emit_eq_responded, setError_eq_errored]
  · rw [exec_peek_of_index hopen k hk, emit_eq_responded]

end Sys2Proof.Machine
end

section
/-! PROOFS. ABSORB, FINALIZE and SQUEEZE in the state they are for, and the transition table (41_sponge.md R81, R84, R86
to R88). -/

namespace Sys2Proof.Machine

/-! ### Lane files by their bytes (R36, R37) -/

theorem stateByte_lanesOfBytes (f : Fin 200 → Byte) (k : Fin 200) : stateByte (lanesOfBytes f) k = f k :=
  byteViewAndLanesAgree.1 f k

theorem lanesOfBytes_stateByte (A : Lanes) : lanesOfBytes (stateByte A) = A := byteViewAndLanesAgree.2 A

/-- A lane file is known by its bytes. -/
theorem eq_lanesOfBytes {A : Lanes} {f : Fin 200 → Byte} (h : ∀ k, stateByte A k = f k) : A = lanesOfBytes f := by
  rw [← lanesOfBytes_stateByte A, funext h]

theorem stateByteD_of_lt (A : Lanes) {k : Nat} (hk : k < 200) : stateByteD A k = stateByte A ⟨k, hk⟩ := dif_pos hk

theorem stateByte_xorStateByte (A : Lanes) (k j : Fin 200) (v : Byte) :
    stateByte (xorStateByte A k v) j = if j = k then stateByte A k ^^^ v else stateByte A j :=
  xorStateByteIsLocal A k j v

/-- One byte exclusive-ored in, as ABSORB's statement writes it (R84). -/
theorem xorStateByte_eq_lanesOfBytes (A : Lanes) (k : Fin 200) (v : Byte) :
    xorStateByte A k v =
      lanesOfBytes fun j => if j.val = k.val then stateByte A j ^^^ v else stateByte A j := by
  refine eq_lanesOfBytes fun j => ?_
  rw [stateByte_xorStateByte]
  by_cases hjk : j = k
  · rw [if_pos hjk, if_pos (congrArg Fin.val hjk), hjk]
  · rw [if_neg hjk, if_neg fun hval => hjk (Fin.ext hval)]

/-- The two padding bytes in order are the padding of R86, on one byte or on two. -/
theorem xorStateByte_xorStateByte_eq_padded (A : Lanes) {used last : Fin 200} {rate : Nat} (delim : Byte)
    (hlast : last.val = rate - 1) :
    xorStateByte (xorStateByte A used delim) last 0x80 = padded rate used.val delim A := by
  refine eq_lanesOfBytes fun k => ?_
  have hused : k.val = used.val ↔ k = used := Fin.ext_iff.symm
  have hend : k.val = rate - 1 ↔ k = last := by rw [← hlast]; exact Fin.ext_iff.symm
  simp only [stateByte_xorStateByte, hused, hend]
  by_cases hku : k = used
  · subst hku
    by_cases hkl : k = last <;> simp [hkl]
  · by_cases hkl : k = last
    · subst hkl
      simp [hku]
    · simp [hku, hkl]

/-- With delimiter 0x80 on the block's last byte the two padding bytes cancel (R87). -/
theorem padded_cancels (A : Lanes) (rate : Nat) : padded rate (rate - 1) 0x80 A = A := by
  refine (eq_lanesOfBytes fun k => ?_).symm
  rw [BitVec.xor_assoc, BitVec.xor_self, BitVec.xor_zero]

/-! ### ABSORB (R84) -/

theorem exec_absorb_open {s : State} (data : Byte) (hopen : s.err = false) (hfsm : s.fsm = .absorbing)
    (hcursor : s.cursor.toNat < 200) :
    exec (.absorb data) s =
      .next (s.setLanes (xorStateByte s.lanes ⟨s.cursor.toNat, hcursor⟩ data)).advanceAbsorb := by
  refine (unlessLocked_open hopen).trans ((if_pos hfsm).trans ?_)
  rw [xorByte_of_lt hcursor, andThen_next]

theorem exec_absorb_room {s : State} (data : Byte) (hopen : s.err = false) (hfsm : s.fsm = .absorbing)
    (hcursor : s.cursor.toNat < 200) (hroom : s.cursor + 1 ≠ s.rate) :
    exec (.absorb data) s = .next { s with
      lanes := xorStateByte s.lanes ⟨s.cursor.toNat, hcursor⟩ data, cursor := s.cursor + 1 } := by
  rw [exec_absorb_open data hopen hfsm hcursor, advanceAbsorb_room (by simpa using hroom)]
  rfl

theorem exec_absorb_full {s : State} (data : Byte) (hopen : s.err = false) (hfsm : s.fsm = .absorbing)
    (hcursor : s.cursor.toNat < 200) (hfull : s.cursor + 1 = s.rate) : ∃ r f,
    exec (.absorb data) s = .next { s with
      lanes := keccakF (xorStateByte s.lanes ⟨s.cursor.toNat, hcursor⟩ data), cursor := 0, round := r, free := f } := by
  rw [exec_absorb_open data hopen hfsm hcursor, advanceAbsorb_full (by simpa using hfull)]
  exact ⟨_, _, rfl⟩

/-- Settles O3: ABSORB's encoding and errors, then the byte at the cursor with room after it or at the block's end. -/
theorem absorbXorsOneByte : Obligations.AbsorbXorsOneByte := by
  refine ⟨fun w h => decode_of_oneOperandRow (op := 2) h rfl, fun w s hop hunused => ?_, fun data s =>
    ⟨exec_locked _, exec_absorb_badState data, fun hopen hfsm hinv => ?_⟩⟩
  · exact acceptWord_of_unusedNonzero_silent (by simp [hop]) (by simpa [unusedNonzero, hop] using hunused)
      (by simp [wordResponds, hop])
  · obtain ⟨hcursor, -⟩ := absorbing_indexes hfsm hinv
    rw [← xorStateByte_eq_lanesOfBytes s.lanes ⟨s.cursor.toNat, hcursor⟩ data]
    exact ⟨exec_absorb_room data hopen hfsm hcursor, exec_absorb_full data hopen hfsm hcursor⟩

/-! ### FINALIZE (R86, R87) -/

/-- FINALIZE in ABSORBING: one permutation of the padded lanes (R86). -/
theorem exec_finalize_absorbing {s : State} (hopen : s.err = false) (hfsm : s.fsm = .absorbing) (hinv : FsmInv s) :
    ∃ r f, exec .finalize s = .next { s with
      lanes := keccakF (padded s.rate.toNat s.cursor.toNat s.delim s.lanes),
      cursor := 0, fsm := .squeezing, round := r, free := f } := by
  obtain ⟨hpos, -, -⟩ := (fsmInv_of_absorbing hfsm).mp hinv
  obtain ⟨hcursor, hlast⟩ := absorbing_indexes hfsm hinv
  have hrate : (s.rate - 1).toNat = s.rate.toNat - 1 := BitVec.toNat_sub_of_le (BitVec.le_def.mpr hpos)
  rw [← xorStateByte_xorStateByte_eq_padded s.lanes (used := ⟨_, hcursor⟩) (last := ⟨_, hlast⟩) s.delim hrate]
  change ∃ r f, execFinalize s = _
  rw [execFinalize, unlessLocked_open hopen, if_pos hfsm, xorByte_of_lt hcursor, andThen_next, State.setLanes_rate,
    xorByte_of_lt hlast, andThen_next]
  exact ⟨_, _, rfl⟩

/-- Settles O4: FINALIZE's one word and its errors, then the padded and permuted lanes. -/
theorem finalizePadsAndPermutes : Obligations.FinalizePadsAndPermutes := by
  refine ⟨fun w => decode_eq_instr_iff.trans eq_comm, fun w s hop hunused => ?_, fun s =>
    ⟨exec_locked _, exec_finalize_badState, exec_finalize_absorbing⟩⟩
  exact acceptWord_of_unusedNonzero_silent (by simp [hop]) (by simpa [unusedNonzero, hop] using hunused)
    (by simp [wordResponds, hop])

/-- Settles O8: FINALIZE's lanes are the permuted padded lanes, and here the padding changes nothing. -/
theorem finalizeCancellingPadding : Obligations.FinalizeCancellingPadding := by
  intro s hopen hfsm hinv hfull hdelim
  obtain ⟨-, hle, hcursor⟩ := (fsmInv_of_absorbing hfsm).mp hinv
  have hlast : s.cursor.toNat = s.rate.toNat - 1 := by
    rw [← hfull, toNat_cursor_succ hle hcursor, Nat.add_sub_cancel]
  have hsame : padded s.rate.toNat s.cursor.toNat s.delim s.lanes = s.lanes := by
    rw [hlast, hdelim, padded_cancels]
  simpa only [hsame] using exec_finalize_absorbing hopen hfsm hinv

/-! ### SQUEEZE (R88) -/

/-- A byte given to the port after a used-up block is permuted (R88). -/
theorem responded_permute (b : Byte) (s : State) :
    responded b (s.permute.setCursor 0) = { responded b s with
      lanes := keccakF s.lanes, cursor := 0, round := Config.freeRound s.free, free := s.free + 1 } := by
  cases hready : s.rspReady <;> simp [responded, hready]

theorem exec_squeeze_open {s : State} (hopen : s.err = false) (hfsm : s.fsm = .squeezing)
    (hcursor : s.startBlock.cursor.toNat < 200) :
    exec .squeeze s = .next ((s.startBlock.emit (stateByteD s.startBlock.lanes s.startBlock.cursor.toNat)).setCursor
      (s.startBlock.cursor + 1)) := by
  refine (unlessLocked_open hopen).trans ((if_pos hfsm).trans ?_)
  rw [emitByte_of_lt hcursor, stateByteD_of_lt _ hcursor, State.emit_cursor]

theorem exec_squeeze_unused {s : State} (hopen : s.err = false) (hfsm : s.fsm = .squeezing) (hinv : FsmInv s)
    (hunused : s.cursor ≠ s.rate) :
    exec .squeeze s = .next { responded (stateByteD s.lanes s.cursor.toNat) s with cursor := s.cursor + 1 } := by
  obtain ⟨-, hle, -⟩ := (fsmInv_of_squeezing hfsm).mp hinv
  have hbelow := startBlock_cursor_lt_rate hfsm hinv
  rw [exec_squeeze_open hopen hfsm (Nat.lt_of_lt_of_le hbelow hle), startBlock_unused hunused, emit_eq_responded]
  rfl

theorem exec_squeeze_used {s : State} (hopen : s.err = false) (hfsm : s.fsm = .squeezing) (hinv : FsmInv s)
    (hused : s.cursor = s.rate) : ∃ r f,
    exec .squeeze s = .next
      { responded (stateByteD (keccakF s.lanes) 0) s with
        lanes := keccakF s.lanes, cursor := 1, round := r, free := f } := by
  obtain ⟨-, hle, -⟩ := (fsmInv_of_squeezing hfsm).mp hinv
  have hbelow := startBlock_cursor_lt_rate hfsm hinv
  rw [exec_squeeze_open hopen hfsm (Nat.lt_of_lt_of_le hbelow hle), startBlock_used hused, emit_eq_responded,
    responded_permute]
  exact ⟨_, _, rfl⟩

/-- Settles O5: SQUEEZE's one word and its errors, then the byte at the cursor or the first of the next block. -/
theorem squeezeEmitsOneByte : Obligations.SqueezeEmitsOneByte := by
  refine ⟨fun w => decode_eq_instr_iff.trans eq_comm, fun w s hop hunused hopen =>
    ⟨_, acceptWord_of_unusedNonzero (by simp [hop]) (by simpa [unusedNonzero, hop] using hunused) hopen, by simp,
      by simp⟩, fun s => ⟨fun hlocked => ?_, fun hopen hfsm => ?_, fun hopen hfsm hinv =>
    ⟨exec_squeeze_unused hopen hfsm hinv, exec_squeeze_used hopen hfsm hinv⟩⟩⟩
  · rw [exec_locked _ hlocked, ← emit_eq_responded]
    rfl
  · rw [exec_squeeze_badState hopen hfsm, emit_eq_responded, setError_eq_errored]

end Sys2Proof.Machine
end

section
/-! PROOFS. The FSM's transition table (41_sponge.md R81). -/

namespace Sys2Proof.Machine

/-- An effect moves the FSM as the table says (R81). -/
theorem Effect.fsmTable_eq {i : Instr} {s t : State} (heffect : Effect s i t) : fsmTable i s.fsm = some t.fsm := by
  cases heffect with
  | nop | init | permute => rfl
  | absorb hfsm | finalize hfsm | squeeze hfsm => simp [fsmTable, hfsm]
  | peek => simp [fsmTable]

theorem fsmTable_absorb_eq_none {data : Byte} {f : Fsm} (h : f ≠ .absorbing) : fsmTable (.absorb data) f = none := by
  cases f with
  | absorbing => exact absurd rfl h
  | idle | squeezing => rfl

theorem fsmTable_finalize_eq_none {f : Fsm} (h : f ≠ .absorbing) : fsmTable .finalize f = none := by
  cases f with
  | absorbing => exact absurd rfl h
  | idle | squeezing => rfl

theorem fsmTable_squeeze_eq_none {f : Fsm} (h : f ≠ .squeezing) : fsmTable .squeeze f = none := by
  cases f with
  | squeezing => exact absurd rfl h
  | idle | absorbing => rfl

/-- On an unlocked block a command has its effect, or raises BAD_STATE where the table says so, or has another error,
which only INIT and PEEK do, in FSM states that are all theirs. -/
theorem exec_open_cases {i : Instr} {s t : State} (hopen : s.err = false) (h : exec i s = .next t) :
    Effect s i t ∨ (fsmTable i s.fsm = none ∧ t = (s.setError .badState).emitZeroIf (responds i)) ∨
      (fsmTable i s.fsm ≠ none ∧ ∃ code ≠ .badState, t = (s.setError code).emitZeroIf (responds i)) := by
  have hunlocked {p : Prop} (hlocked : s.err = true) : p := absurd hlocked (Bool.eq_false_iff.mp hopen)
  cases i with
  | nop =>
    obtain rfl := execNop_cases h
    exact .inl .nop
  | init rate delim =>
    obtain ⟨hlocked, -⟩ | ⟨-, legal, rfl⟩ | ⟨-, -, rfl⟩ := execInit_cases h
    · exact hunlocked hlocked
    · exact .inl (.init legal)
    · exact .inr (.inr ⟨by simp [fsmTable], .badRate, by decide, rfl⟩)
  | absorb data =>
    obtain ⟨hlocked, -⟩ | ⟨-, hfsm, rfl⟩ | ⟨-, hfsm, hcursor, rfl⟩ := execAbsorb_cases h
    · exact hunlocked hlocked
    · exact .inr (.inl ⟨fsmTable_absorb_eq_none hfsm, rfl⟩)
    · exact .inl (.absorb hfsm hcursor)
  | finalize =>
    obtain ⟨hlocked, -⟩ | ⟨-, hfsm, rfl⟩ | ⟨-, hfsm, hcursor, hrate, rfl⟩ := execFinalize_cases h
    · exact hunlocked hlocked
    · exact .inr (.inl ⟨fsmTable_finalize_eq_none hfsm, rfl⟩)
    · exact .inl (.finalize hfsm hcursor hrate)
  | squeeze =>
    obtain ⟨hlocked, -⟩ | ⟨-, hfsm, rfl⟩ | ⟨-, hfsm, hcursor, rfl⟩ := execSqueeze_cases h
    · exact hunlocked hlocked
    · exact .inr (.inl ⟨fsmTable_squeeze_eq_none hfsm, rfl⟩)
    · exact .inl (.squeeze hfsm hcursor)
  | permute =>
    obtain ⟨hlocked, -⟩ | ⟨-, rfl⟩ := execPermute_cases h
    · exact hunlocked hlocked
    · exact .inl .permute
  | peek index =>
    obtain ⟨hlocked, -⟩ | ⟨-, -, rfl⟩ | ⟨-, hindex, rfl⟩ := execPeek_cases h
    · exact hunlocked hlocked
    · exact .inr (.inr ⟨by simp [fsmTable], .badIndex, by decide, rfl⟩)
    · exact .inl (.peek hindex)

/-- Settles O21: an effect follows the table, BAD_STATE is raised where it has none, other errors leave the FSM. -/
theorem fsmFollowsTable : Obligations.FsmFollowsTable := by
  intro i s t hopen h
  obtain heffect | ⟨hnone, rfl⟩ | ⟨hsome, code, hcode, rfl⟩ := exec_open_cases hopen h
  · obtain ⟨herr, -⟩ := heffect.error_record
    simp [heffect.fsmTable_eq, herr, hopen]
  · simp [hnone]
  · simp [hsome, hcode]

end Sys2Proof.Machine
end

section
/-! PROOFS. A run of ABSORBs from INIT against the sponge written block by block (41_sponge.md R84, R85). -/

namespace Sys2Proof.Machine

/-! ### Runs of commands (20_memory.md R45) -/

@[simp] theorem runCommands_singleton (i : Instr) (s : State) : runCommands [i] s = exec i s := by
  rw [runCommands]
  cases exec i s <;> rfl

theorem runCommands_append (is js : List Instr) (s : State) :
    runCommands (is ++ js) s = andThen (runCommands is s) (runCommands js) := by
  induction is generalizing s with
  | nil => rfl
  | cons i is ih =>
    rw [List.cons_append, runCommands, runCommands]
    cases exec i s with
    | next t => exact ih t
    | fault r | refused r => rfl

/-- A run goes on from the state its first part leaves. -/
theorem runCommands_append_of_next {is : List Instr} {s t : State} (h : runCommands is s = .next t)
    (js : List Instr) : runCommands (is ++ js) s = runCommands js t := by
  rw [runCommands_append, h, andThen_next]

/-! ### One byte further, within a block or into the next -/

theorem succ_div_mod_of_full {n rate : Nat} (h : n % rate + 1 = rate) :
    (n + 1) / rate = n / rate + 1 ∧ (n + 1) % rate = 0 := by
  have hpos : 0 < rate := by omega
  have hsplit := Nat.div_add_mod n rate
  have hblock : rate * (n / rate + 1) = rate * (n / rate) + rate := Nat.mul_succ _ _
  exact (Nat.div_mod_unique hpos).mpr ⟨by omega, hpos⟩

theorem succ_div_mod_of_room {n rate : Nat} (h : n % rate + 1 < rate) :
    (n + 1) / rate = n / rate ∧ (n + 1) % rate = n % rate + 1 := by
  have hpos : 0 < rate := by omega
  have hsplit := Nat.div_add_mod n rate
  exact (Nat.div_mod_unique hpos).mpr ⟨by omega, h⟩

/-! ### The reference, byte by byte -/

theorem stateByte_xorBlock (A : Lanes) (block : List Byte) (k : Fin 200) :
    stateByte (xorBlock A block) k = stateByte A k ^^^ block.getD k.val 0 :=
  stateByte_lanesOfBytes _ k

@[simp] theorem xorBlock_nil (A : Lanes) : xorBlock A [] = A :=
  (eq_lanesOfBytes fun k => by simp).symm

/-- One byte more in a block is one byte exclusive-ored in after it. -/
theorem xorBlock_snoc (A : Lanes) {block : List Byte} (b : Byte) {k : Fin 200} (hk : k.val = block.length) :
    xorBlock A (block ++ [b]) = xorStateByte (xorBlock A block) k b := by
  refine (eq_lanesOfBytes fun j => ?_).symm
  rw [stateByte_xorStateByte, stateByte_xorBlock, stateByte_xorBlock]
  by_cases hjk : j = k
  · subst hjk
    simp [hk]
  · have hne : j.val ≠ block.length := fun h => hjk (Fin.ext (h.trans hk.symm))
    rw [if_neg hjk]
    rcases Nat.lt_or_gt_of_ne hne with hlt | hgt
    · rw [List.getD_append _ _ _ _ hlt]
    · simp [Nat.le_of_lt hgt, hgt]

/-- The lanes after the first m full blocks of the input (R84). -/
def absorbedBlocks (rate : Nat) (bytes : List Byte) (m : Nat) : Lanes :=
  (List.range m).foldl (fun A j => keccakF (xorBlock A ((bytes.drop (j * rate)).take rate))) zeroLanes

theorem absorbedBlocks_succ (rate : Nat) (bytes : List Byte) (m : Nat) :
    absorbedBlocks rate bytes (m + 1) =
      keccakF (xorBlock (absorbedBlocks rate bytes m) ((bytes.drop (m * rate)).take rate)) := by
  simp [absorbedBlocks, List.range_succ]

/-- Full blocks do not depend on the input after them. -/
theorem absorbedBlocks_append {rate m : Nat} {bytes : List Byte} (more : List Byte) (h : m * rate ≤ bytes.length) :
    absorbedBlocks rate (bytes ++ more) m = absorbedBlocks rate bytes m := by
  induction m with
  | zero => simp [absorbedBlocks]
  | succ m ih =>
    have hsucc : (m + 1) * rate = m * rate + rate := Nat.succ_mul m rate
    have hstart : m * rate ≤ bytes.length := by omega
    rw [absorbedBlocks_succ, absorbedBlocks_succ, ih hstart, List.drop_append_of_le_length hstart,
      List.take_append_of_le_length (by rw [List.length_drop]; omega)]

/-- The bytes of the block in progress. -/
def blockRest (rate : Nat) (bytes : List Byte) : List Byte := bytes.drop (bytes.length / rate * rate)

theorem length_blockRest (rate : Nat) (bytes : List Byte) : (blockRest rate bytes).length = bytes.length % rate := by
  rw [blockRest, List.length_drop, Nat.mod_eq_sub_div_mul]

theorem absorbed_eq (rate : Nat) (bytes : List Byte) :
    absorbed rate bytes = xorBlock (absorbedBlocks rate bytes (bytes.length / rate)) (blockRest rate bytes) := rfl

theorem absorbed_nil (rate : Nat) : absorbed rate [] = zeroLanes := by
  simp [absorbed]

section
variable {rate : Nat} {bytes : List Byte} (b : Byte) {k : Fin 200} (hk : k.val = bytes.length % rate)
include hk

/-- The block in progress with one byte more, as both ABSORBs find it. -/
theorem xorBlock_blockRest_snoc :
    xorBlock (absorbedBlocks rate (bytes ++ [b]) (bytes.length / rate))
        ((bytes ++ [b]).drop (bytes.length / rate * rate)) =
      xorStateByte (absorbed rate bytes) k b := by
  have hfits : bytes.length / rate * rate ≤ bytes.length := Nat.div_mul_le_self _ _
  rw [absorbedBlocks_append _ hfits, List.drop_append_of_le_length hfits, absorbed_eq]
  exact xorBlock_snoc _ b (hk.trans (length_blockRest rate bytes).symm)

/-- A byte with room after it only joins the block in progress. -/
theorem absorbed_snoc_room (hroom : bytes.length % rate + 1 < rate) :
    absorbed rate (bytes ++ [b]) = xorStateByte (absorbed rate bytes) k b := by
  rw [← xorBlock_blockRest_snoc b hk, absorbed_eq, blockRest, List.length_append, List.length_singleton,
    (succ_div_mod_of_room hroom).1]

/-- The byte that fills the block is followed by the block's permutation. -/
theorem absorbed_snoc_full (hfull : bytes.length % rate + 1 = rate) :
    absorbed rate (bytes ++ [b]) = keccakF (xorStateByte (absorbed rate bytes) k b) := by
  obtain ⟨hdiv, hmod⟩ := succ_div_mod_of_full hfull
  have hlength : (bytes ++ [b]).length = bytes.length + 1 := List.length_append
  have hrest : blockRest rate (bytes ++ [b]) = [] :=
    List.eq_nil_of_length_eq_zero (by rw [length_blockRest, hlength, hmod])
  have hblock : ((bytes ++ [b]).drop (bytes.length / rate * rate)).length ≤ rate := by
    rw [List.length_drop, hlength]
    have := Nat.div_add_mod' bytes.length rate
    omega
  rw [← xorBlock_blockRest_snoc b hk, absorbed_eq, hrest, xorBlock_nil, hlength, hdiv, absorbedBlocks_succ,
    List.take_of_length_le hblock]

end

/-! ### The run -/

/-- The state once INIT and then ABSORBs of these bytes have run, as R85 describes it. -/
def State.withAbsorbed (rate delim : Byte) (bytes : List Byte) (r : Fin 24) (f : Nat) (s : State) : State :=
  { s with
    lanes := absorbed rate.toNat bytes, rate := rate, delim := delim,
    cursor := BitVec.ofNat 8 (bytes.length % rate.toNat), fsm := .absorbing, round := r, free := f }

section
variable (rate delim : Byte) (bytes : List Byte) (r : Fin 24) (f : Nat) (s : State)

@[simp] theorem State.withAbsorbed_lanes :
    (s.withAbsorbed rate delim bytes r f).lanes = absorbed rate.toNat bytes := rfl
@[simp] theorem State.withAbsorbed_rate : (s.withAbsorbed rate delim bytes r f).rate = rate := rfl
@[simp] theorem State.withAbsorbed_delim : (s.withAbsorbed rate delim bytes r f).delim = delim := rfl
@[simp] theorem State.withAbsorbed_fsm : (s.withAbsorbed rate delim bytes r f).fsm = .absorbing := rfl
/-! These two go by unfolding: `rfl` would compare the whole states first. -/

@[simp] theorem State.withAbsorbed_err : (s.withAbsorbed rate delim bytes r f).err = s.err := by
  simp only [State.withAbsorbed]
@[simp] theorem State.withAbsorbed_responses : (s.withAbsorbed rate delim bytes r f).responses = s.responses := by
  simp only [State.withAbsorbed]

/-- More bytes change the lanes and the cursor. -/
theorem withAbsorbed_longer (bytes' : List Byte) (r' : Fin 24) (f' : Nat) :
    s.withAbsorbed rate delim bytes' r' f' = { s.withAbsorbed rate delim bytes r f with
      lanes := absorbed rate.toNat bytes', cursor := BitVec.ofNat 8 (bytes'.length % rate.toNat),
      round := r', free := f' } := by
  simp only [State.withAbsorbed]

/-- The cursor after one byte more, whether or not that fills the block. -/
theorem withAbsorbed_cursor_succ :
    (s.withAbsorbed rate delim bytes r f).cursor + 1 = BitVec.ofNat 8 (bytes.length % rate.toNat + 1) :=
  (BitVec.ofNat_add _ _).symm

end

section
variable {rate : Byte} (hpos : 1 ≤ rate.toNat) (hle : rate.toNat ≤ 200)
include hpos hle

theorem toNat_withAbsorbed_cursor (delim : Byte) (bytes : List Byte) (r : Fin 24) (f : Nat) (s : State) :
    (s.withAbsorbed rate delim bytes r f).cursor.toNat = bytes.length % rate.toNat := by
  have hlt := Nat.mod_lt bytes.length hpos
  exact Nat.mod_eq_of_lt (by omega)

theorem fsmInv_withAbsorbed (delim : Byte) (bytes : List Byte) (r : Fin 24) (f : Nat) (s : State) :
    FsmInv (s.withAbsorbed rate delim bytes r f) := by
  refine (fsmInv_of_absorbing rfl).mpr ⟨hpos, hle, ?_⟩
  rw [toNat_withAbsorbed_cursor hpos hle]
  exact Nat.mod_lt _ hpos

theorem withAbsorbed_full_iff (delim : Byte) (bytes : List Byte) (r : Fin 24) (f : Nat) (s : State) :
    (s.withAbsorbed rate delim bytes r f).cursor + 1 = rate ↔ bytes.length % rate.toNat + 1 = rate.toNat := by
  have hlt := Nat.mod_lt bytes.length hpos
  rw [withAbsorbed_cursor_succ, ← BitVec.toNat_inj, BitVec.toNat_ofNat, Nat.mod_eq_of_lt (by omega)]

/-- One ABSORB more, where the block has room or is filled by it. -/
theorem exec_absorb_withAbsorbed {s : State} (hopen : s.err = false) (delim : Byte) (bytes : List Byte) (b : Byte)
    (r : Fin 24) (f : Nat) : ∃ r' f',
    exec (.absorb b) (s.withAbsorbed rate delim bytes r f) =
      .next (s.withAbsorbed rate delim (bytes ++ [b]) r' f') := by
  have hopenHere : (s.withAbsorbed rate delim bytes r f).err = false := by simpa using hopen
  have hcursor := toNat_withAbsorbed_cursor hpos hle delim bytes r f s
  have hlt := Nat.mod_lt bytes.length hpos
  have hindex : (s.withAbsorbed rate delim bytes r f).cursor.toNat < 200 := by omega
  have hfull_iff := withAbsorbed_full_iff hpos hle delim bytes r f s
  simp only [withAbsorbed_longer rate delim bytes r f s (bytes ++ [b]), List.length_append, List.length_singleton]
  by_cases hfull : bytes.length % rate.toNat + 1 = rate.toNat
  · rw [absorbed_snoc_full b (k := ⟨_, hindex⟩) hcursor hfull, (succ_div_mod_of_full hfull).2]
    exact exec_absorb_full b hopenHere rfl hindex (hfull_iff.mpr hfull)
  · have hroom : bytes.length % rate.toNat + 1 < rate.toNat := by omega
    rw [absorbed_snoc_room b (k := ⟨_, hindex⟩) hcursor hroom, (succ_div_mod_of_room hroom).2,
      ← withAbsorbed_cursor_succ rate delim bytes r f s]
    exact ⟨_, _, exec_absorb_room b hopenHere rfl hindex fun h => hfull (hfull_iff.mp h)⟩

end

/-- Settles O48: by induction on the input from its end; each ABSORB joins the block or fills it. -/
theorem absorbSequenceFillsBlocks : Obligations.AbsorbSequenceFillsBlocks := by
  intro rate delim bytes s hopen hpos hle
  change ∃ r f, _ = Host.Outcome.next (s.withAbsorbed rate delim bytes r f)
  induction bytes using List.reverseRecOn with
  | nil =>
    refine ⟨s.round, s.free, ?_⟩
    rw [updateCommands_nil, runCommands_singleton, exec_init_legal hopen (rateLegal_iff.mpr ⟨hpos, hle⟩)]
    simp [State.withAbsorbed, absorbed_nil, State.configure]
  | append_singleton bytes b ih =>
    obtain ⟨r, f, hrun⟩ := ih
    have hsplit : .init rate delim :: updateCommands (bytes ++ [b]) =
        (.init rate delim :: updateCommands bytes) ++ [.absorb b] := by
      rw [updateCommands_append]
      rfl
    rw [hsplit, runCommands_append_of_next hrun, runCommands_singleton]
    exact exec_absorb_withAbsorbed hpos hle hopen delim bytes b r f

end Sys2Proof.Machine
end

section
/-! PROOFS. A run of SQUEEZEs against the reference's output bytes (41_sponge.md R88, R89, R97). -/

namespace Sys2Proof.Machine

/-! ### Where a squeezing block stands: the cursor c and n bytes more -/

/-- The cursor after n bytes more (R88): a used-up block is permuted only when the next byte is asked for. -/
def squeezeCursor (rate c n : Nat) : Nat := if n = 0 then c else (c + n - 1) % rate + 1

section
variable {rate c n : Nat} (hpos : 1 ≤ rate) (hc : c ≤ rate)
include hpos hc

/-- But for a block of which nothing is used, the cursor is one after the byte given last. -/
theorem squeezeCursor_eq (h : c + n ≠ 0) : squeezeCursor rate c n = (c + n - 1) % rate + 1 := by
  by_cases hn : n = 0
  · subst hn
    rw [squeezeCursor, if_pos rfl, Nat.add_zero, Nat.mod_eq_of_lt (by omega)]
    omega
  · rw [squeezeCursor, if_neg hn]

theorem squeezeCursor_le : squeezeCursor rate c n ≤ rate := by
  have hlt := Nat.mod_lt (c + n - 1) hpos
  by_cases hn : n = 0
  · rwa [squeezeCursor, if_pos hn]
  · rw [squeezeCursor, if_neg hn]
    exact hlt

/-- Output byte c + n is the first of a new block. -/
theorem squeeze_position_used (hused : squeezeCursor rate c n = rate) :
    (c + n) / rate = (c + n - 1) / rate + 1 ∧ (c + n) % rate = 0 := by
  have hstarted : c + n ≠ 0 := fun h => by
    rw [squeezeCursor, if_pos (by omega)] at hused
    omega
  rw [squeezeCursor_eq hpos hc hstarted] at hused
  simpa [Nat.sub_add_cancel (Nat.pos_of_ne_zero hstarted)] using succ_div_mod_of_full hused

/-- Output byte c + n is in the block of the byte before it, at the cursor. -/
theorem squeeze_position_unused (hunused : squeezeCursor rate c n ≠ rate) :
    (c + n) / rate = (c + n - 1) / rate ∧ (c + n) % rate = squeezeCursor rate c n := by
  by_cases hstarted : c + n = 0
  · obtain ⟨rfl, rfl⟩ := Nat.add_eq_zero_iff.mp hstarted
    simp [squeezeCursor]
  · have hle := squeezeCursor_le (n := n) hpos hc
    rw [squeezeCursor_eq hpos hc hstarted] at hunused hle ⊢
    have hroom : (c + n - 1) % rate + 1 < rate := by omega
    simpa [Nat.sub_add_cancel (Nat.pos_of_ne_zero hstarted)] using succ_div_mod_of_room hroom

end

/-! ### The run -/

/-- On an idle port a byte given is a byte delivered (R50). -/
theorem responded_portIdle (b : Byte) {s : State} (hidle : PortIdle s) :
    responded b s = { s with responses := s.responses ++ [b] } := by
  obtain ⟨hbusy, hpending, hready⟩ := hidle
  rw [responded, if_pos hready, ← hbusy, ← hpending]

/-- The state once n SQUEEZEs have run, as R89 describes it from any cursor. -/
def State.afterSqueezes (n : Nat) (r : Fin 24) (f : Nat) (s : State) : State :=
  { s with
    lanes := keccakF^[(s.cursor.toNat + n - 1) / s.rate.toNat] s.lanes,
    cursor := if n = 0 then s.cursor else BitVec.ofNat 8 ((s.cursor.toNat + n - 1) % s.rate.toNat + 1),
    responses := s.responses ++ (List.range n).map fun j => outputByte s.rate.toNat s.lanes (s.cursor.toNat + j),
    round := r, free := f }

section
variable (n : Nat) (r : Fin 24) (f : Nat) (s : State)

theorem State.afterSqueezes_lanes :
    (s.afterSqueezes n r f).lanes = keccakF^[(s.cursor.toNat + n - 1) / s.rate.toNat] s.lanes := rfl
@[simp] theorem State.afterSqueezes_rate : (s.afterSqueezes n r f).rate = s.rate := by
  simp only [State.afterSqueezes]
@[simp] theorem State.afterSqueezes_fsm : (s.afterSqueezes n r f).fsm = s.fsm := by
  simp only [State.afterSqueezes]
@[simp] theorem State.afterSqueezes_err : (s.afterSqueezes n r f).err = s.err := by
  simp only [State.afterSqueezes]
theorem State.afterSqueezes_responses : (s.afterSqueezes n r f).responses =
    s.responses ++ (List.range n).map fun j => outputByte s.rate.toNat s.lanes (s.cursor.toNat + j) := rfl

/-- The bytes of a run are those of the positions from the cursor on, so a shorter run gives the first of them. -/
theorem afterSqueezes_responses_add (m k : Nat) (r r' : Fin 24) (f f' : Nat) (s : State) :
    (s.afterSqueezes (m + k) r' f').responses = (s.afterSqueezes m r f).responses ++
      (List.range k).map fun j => outputByte s.rate.toNat s.lanes (s.cursor.toNat + (m + j)) := by
  simp [State.afterSqueezes_responses, List.range_add, Function.comp_def]

theorem portIdle_afterSqueezes {s : State} (hidle : PortIdle s) : PortIdle (s.afterSqueezes n r f) := by
  simpa only [PortIdle, State.afterSqueezes] using hidle

/-- One output byte more. -/
theorem afterSqueezes_succ (r' : Fin 24) (f' : Nat) :
    s.afterSqueezes (n + 1) r' f' = { s.afterSqueezes n r f with
      lanes := keccakF^[(s.cursor.toNat + n) / s.rate.toNat] s.lanes,
      cursor := BitVec.ofNat 8 ((s.cursor.toNat + n) % s.rate.toNat + 1),
      responses := (s.afterSqueezes n r f).responses ++ [outputByte s.rate.toNat s.lanes (s.cursor.toNat + n)],
      round := r', free := f' } := by
  simp [State.afterSqueezes, List.range_succ, ← Nat.add_assoc]

end

section
variable {s : State} (hfsm : s.fsm = .squeezing) (hinv : FsmInv s)
include hfsm hinv

theorem toNat_afterSqueezes_cursor (n : Nat) (r : Fin 24) (f : Nat) :
    (s.afterSqueezes n r f).cursor.toNat = squeezeCursor s.rate.toNat s.cursor.toNat n := by
  obtain ⟨hpos, hle, hcursor⟩ := (fsmInv_of_squeezing hfsm).mp hinv
  have hbound := squeezeCursor_le (n := n) hpos hcursor
  unfold squeezeCursor at hbound ⊢
  unfold State.afterSqueezes
  split at hbound
  next hn => simp [hn]
  next hn =>
    simp only [if_neg hn, BitVec.toNat_ofNat]
    exact Nat.mod_eq_of_lt (by omega)

theorem afterSqueezes_zero : s.afterSqueezes 0 s.round s.free = s := by
  obtain ⟨hpos, -, hcursor⟩ := (fsmInv_of_squeezing hfsm).mp hinv
  have hnone : (s.cursor.toNat - 1) / s.rate.toNat = 0 := Nat.div_eq_of_lt (by omega)
  simp [State.afterSqueezes, hnone]

theorem fsmInv_afterSqueezes (n : Nat) (r : Fin 24) (f : Nat) : FsmInv (s.afterSqueezes n r f) := by
  obtain ⟨hpos, hle, hcursor⟩ := (fsmInv_of_squeezing hfsm).mp hinv
  rw [fsmInv_of_squeezing (by simpa using hfsm), State.afterSqueezes_rate, toNat_afterSqueezes_cursor hfsm hinv]
  exact ⟨hpos, hle, squeezeCursor_le hpos hcursor⟩

/-- One SQUEEZE more gives the next output byte. -/
theorem exec_squeeze_afterSqueezes (hopen : s.err = false) (hidle : PortIdle s) (n : Nat) (r : Fin 24) (f : Nat) :
    ∃ r' f', exec .squeeze (s.afterSqueezes n r f) = .next (s.afterSqueezes (n + 1) r' f') := by
  obtain ⟨hpos, hle, hc⟩ := (fsmInv_of_squeezing hfsm).mp hinv
  have hopenHere : (s.afterSqueezes n r f).err = false := by simpa using hopen
  have hfsmHere : (s.afterSqueezes n r f).fsm = .squeezing := by simpa using hfsm
  have hinvHere := fsmInv_afterSqueezes hfsm hinv n r f
  have hgiven (b : Byte) := responded_portIdle b (portIdle_afterSqueezes n r f hidle)
  have hcursor := toNat_afterSqueezes_cursor hfsm hinv n r f
  have hused_iff : (s.afterSqueezes n r f).cursor = (s.afterSqueezes n r f).rate ↔
      squeezeCursor s.rate.toNat s.cursor.toNat n = s.rate.toNat := by
    rw [← BitVec.toNat_inj, hcursor, State.afterSqueezes_rate]
  simp only [afterSqueezes_succ n r f s, outputByte]
  by_cases hused : squeezeCursor s.rate.toNat s.cursor.toNat n = s.rate.toNat
  · obtain ⟨hdiv, hmod⟩ := squeeze_position_used hpos hc hused
    have hexec := exec_squeeze_used hopenHere hfsmHere hinvHere (hused_iff.mpr hused)
    rw [hdiv, hmod, Function.iterate_succ_apply', ← State.afterSqueezes_lanes n r f s]
    simp only [hgiven] at hexec
    exact hexec
  · obtain ⟨hdiv, hmod⟩ := squeeze_position_unused hpos hc hused
    have hexec := exec_squeeze_unused hopenHere hfsmHere hinvHere (fun h => hused (hused_iff.mp h))
    rw [hdiv, hmod, ← hcursor, ← State.afterSqueezes_lanes n r f s, BitVec.ofNat_add, BitVec.ofNat_toNat,
      BitVec.setWidth_eq]
    simp only [hgiven] at hexec
    exact ⟨_, _, hexec⟩

/-- n SQUEEZEs from any cursor, by induction on n. -/
theorem runCommands_squeezes (hopen : s.err = false) (hidle : PortIdle s) (n : Nat) :
    ∃ r f, runCommands (List.replicate n .squeeze) s = .next (s.afterSqueezes n r f) := by
  induction n with
  | zero => exact ⟨_, _, congrArg Host.Outcome.next (afterSqueezes_zero hfsm hinv).symm⟩
  | succ n ih =>
    obtain ⟨r, f, hrun⟩ := ih
    rw [List.replicate_succ', runCommands_append_of_next hrun, runCommands_singleton]
    exact exec_squeeze_afterSqueezes hfsm hinv hopen hidle n r f

end

/-- Settles O57: `runCommands_squeezes`, its last state written out. -/
theorem squeezeSequenceResumesAtCursor : Obligations.SqueezeSequenceResumesAtCursor :=
  fun n _ hopen hfsm hinv hidle => runCommands_squeezes hfsm hinv hopen hidle n

/-- Settles O49: the run of O57 from cursor 0. -/
theorem squeezeSequenceOutputsBlocks : Obligations.SqueezeSequenceOutputsBlocks := by
  intro n s hopen hfsm hinv hcursor hidle
  have hrun := squeezeSequenceResumesAtCursor n s hopen hfsm hinv hidle
  simpa only [hcursor, BitVec.ofNat_eq_ofNat, BitVec.toNat_ofNat, Nat.zero_mod, Nat.zero_add] using hrun

/-- Settles O51: two runs by `runCommands_squeezes`, the longer one's bytes cut by `afterSqueezes_responses_add`. -/
theorem longerOutputExtendsShorter : Obligations.LongerOutputExtendsShorter := by
  intro m n s hmn hopen hfsm hinv hidle
  obtain ⟨rm, fm, hshort⟩ := runCommands_squeezes hfsm hinv hopen hidle m
  obtain ⟨rn, fn, hlong⟩ := runCommands_squeezes hfsm hinv hopen hidle n
  obtain ⟨k, rfl⟩ := Nat.exists_eq_add_of_le hmn
  exact ⟨_, _, _, hshort, hlong, by simp [State.afterSqueezes_responses],
    afterSqueezes_responses_add m k rm rn fm fn s⟩

end Sys2Proof.Machine
end

section
/-! PROOFS. A whole computation against the reference sponge (41_sponge.md R84 to R89; 45_host_interface.md R101). -/

namespace Sys2Proof.Machine

theorem portIdle_withAbsorbed {s : State} (rate delim : Byte) (bytes : List Byte) (r : Fin 24) (f : Nat)
    (hidle : PortIdle s) : PortIdle (s.withAbsorbed rate delim bytes r f) := by
  simpa only [PortIdle, State.withAbsorbed] using hidle

/-- FINALIZE after the input: SQUEEZING begins on the reference's padded and permuted lanes (R86). -/
theorem exec_finalize_withAbsorbed {rate : Byte} {s : State} (hpos : 1 ≤ rate.toNat) (hle : rate.toNat ≤ 200)
    (hopen : s.err = false) (delim : Byte) (bytes : List Byte) (r : Fin 24) (f : Nat) :
    ∃ t, exec .finalize (s.withAbsorbed rate delim bytes r f) = .next t ∧
      t.lanes = keccakF (padded rate.toNat (bytes.length % rate.toNat) delim (absorbed rate.toNat bytes)) ∧
      t.rate = rate ∧ t.cursor = 0 ∧ t.fsm = .squeezing ∧ t.err = false ∧ t.responses = s.responses := by
  have hopenFed : (s.withAbsorbed rate delim bytes r f).err = false := by simpa using hopen
  have hinvFed := fsmInv_withAbsorbed hpos hle delim bytes r f s
  obtain ⟨r', f', hfinalize⟩ := exec_finalize_absorbing hopenFed rfl hinvFed
  exact ⟨_, hfinalize, by simp [toNat_withAbsorbed_cursor hpos hle], rfl, rfl, rfl, by simpa using hopen, by simp⟩

/-- Settles O50: the input by O48, the padding by `exec_finalize_withAbsorbed`, the output by O49. -/
theorem blockComputesTheSponge : Obligations.BlockComputesTheSponge := by
  intro rate delim bytes n s hopen hidle hpos hle
  obtain ⟨r, f, habsorb⟩ := absorbSequenceFillsBlocks rate delim bytes s hopen hpos hle
  change _ = Host.Outcome.next (s.withAbsorbed rate delim bytes r f) at habsorb
  obtain ⟨t, hfinalize, hlanes, hrate, hcursor, hfsm, hopenT, hresponses⟩ :=
    exec_finalize_withAbsorbed hpos hle hopen delim bytes r f
  have hinv := exec_keeps_fsmInv hfinalize (fsmInv_withAbsorbed hpos hle delim bytes r f s)
  have hidleT := exec_keeps_portIdle hfinalize (portIdle_withAbsorbed rate delim bytes r f hidle)
  obtain ⟨r', f', hsqueeze⟩ := squeezeSequenceOutputsBlocks n t hopenT hfsm hinv hcursor hidleT
  have hrun := calc runCommands (hashCommands rate delim bytes n) s
    _ = runCommands (finalizeCommands n) (s.withAbsorbed rate delim bytes r f) :=
      runCommands_append_of_next habsorb _
    _ = runCommands (List.replicate n .squeeze) t := by rw [finalizeCommands, runCommands, hfinalize, andThen_next]
    _ = _ := hsqueeze
  refine ⟨_, hrun, ?_, hfsm, hopenT⟩
  simp only [hresponses, hrate, hlanes, spongeOutput]

end Sys2Proof.Machine
end

section
/-! PROOFS. The host's side: the variants' table, and a hasher's session under either strategy
(45_host_interface.md R99 to R107). -/

namespace Sys2Proof.Machine

/-- Settles O53: the table of R99, row by row. -/
theorem variantsHaveTheirInitWords : Obligations.VariantsHaveTheirInitWords := by
  unfold Obligations.VariantsHaveTheirInitWords
  decide

/-! ### Any number of `update` calls -/

@[simp] theorem updates_nil (h : Hasher) : h.updates [] = (h, []) := rfl

theorem updates_cons_of_update {h h' : Hasher} {bytes : List Byte} {is : List Instr}
    (hfirst : h.update bytes = (h', is))
    (more : List (List Byte)) :
    h.updates (bytes :: more) = ((h'.updates more).1, is ++ (h'.updates more).2) := by
  rw [Hasher.updates, hfirst]

/-- A hasher that forwards each call and stays as it is forwards all calls. -/
theorem updates_of_forwarding {h : Hasher} (hforwards : ∀ bytes, h.update bytes = (h, updateCommands bytes))
    (calls : List (List Byte)) : h.updates calls = (h, updateCommands calls.flatten) := by
  induction calls with
  | nil => rfl
  | cons bytes more ih =>
    rw [updates_cons_of_update (hforwards bytes), ih, List.flatten_cons, updateCommands_append]

theorem updates_direct (sp : SpongeInstance) (calls : List (List Byte)) :
    (Hasher.direct sp).updates calls = (.direct sp, updateCommands calls.flatten) :=
  updates_of_forwarding (update_direct sp) calls

theorem updates_committed (sp : SpongeInstance) (calls : List (List Byte)) :
    (Hasher.adaptive { sponge := sp, phase := .committed }).updates calls =
      (.adaptive { sponge := sp, phase := .committed }, updateCommands calls.flatten) :=
  updates_of_forwarding (update_committed sp) calls

/-- Within the threshold all bytes are buffered (R104). -/
theorem updates_within {sp : SpongeInstance} {raw : List Byte} {calls : List (List Byte)}
    (h : raw.length + calls.flatten.length ≤ Config.threshold) :
    (Hasher.adaptive { sponge := sp, phase := .buffering raw }).updates calls =
      (.adaptive { sponge := sp, phase := .buffering (raw ++ calls.flatten) }, []) := by
  induction calls generalizing raw with
  | nil => simp
  | cons bytes more ih =>
    rw [List.flatten_cons, List.length_append] at h
    have hrest : (raw ++ bytes).length + more.flatten.length ≤ Config.threshold := by
      rw [List.length_append]; omega
    rw [updates_cons_of_update (update_within (by omega)), ih hrest]
    simp

/-- Beyond it some call commits: it flushes the bytes held, and the later calls are forwarded (R105, R106). -/
theorem updates_beyond {sp : SpongeInstance} {raw : List Byte} {calls : List (List Byte)}
    (hraw : raw.length ≤ Config.threshold) (h : Config.threshold < raw.length + calls.flatten.length) :
    (Hasher.adaptive { sponge := sp, phase := .buffering raw }).updates calls =
      (.adaptive { sponge := sp, phase := .committed }, updateCommands (raw ++ calls.flatten)) := by
  induction calls generalizing raw with
  | nil => exact absurd hraw (Nat.not_le.mpr h)
  | cons bytes more ih =>
    rw [List.flatten_cons, List.length_append] at h
    obtain hfirst | hfirst := Nat.lt_or_ge Config.threshold (raw.length + bytes.length)
    · rw [updates_cons_of_update (update_beyond hfirst), updates_committed]
      simp [updateCommands_append]
    · have hheld : (raw ++ bytes).length ≤ Config.threshold := by rwa [List.length_append]
      have hrest : Config.threshold < (raw ++ bytes).length + more.flatten.length := by
        rw [List.length_append]; omega
      rw [updates_cons_of_update (update_within hfirst), ih hheld hrest]
      simp

/-! ### The selector from its construction -/

section Fresh
variable {sp : SpongeInstance} {calls : List (List Byte)}

theorem updates_fresh_within (h : calls.flatten.length ≤ Config.threshold) :
    (Hasher.adaptive (Selector.fresh sp)).updates calls =
      (.adaptive { sponge := sp, phase := .buffering calls.flatten }, []) :=
  updates_within (by simpa using h)

theorem updates_fresh_beyond (h : Config.threshold < calls.flatten.length) :
    (Hasher.adaptive (Selector.fresh sp)).updates calls =
      (.adaptive { sponge := sp, phase := .committed }, updateCommands calls.flatten) :=
  updates_beyond (Nat.zero_le _) (by simpa using h)

end Fresh

theorem isCommitted_iff {sel : Selector} : sel.isCommitted = true ↔ sel.phase = .committed := by
  cases hphase : sel.phase <;> simp [Selector.isCommitted, hphase]

theorem Selector.update_of_committed {sel : Selector} (h : sel.phase = .committed) (bytes : List Byte) :
    sel.update bytes = (sel, updateCommands bytes) := by
  simp [Selector.update, h]

/-- Settles O55: all bytes together are within the threshold or beyond it. -/
theorem selectorForwardsAllBytesInOrder : Obligations.SelectorForwardsAllBytesInOrder := by
  refine ⟨fun sp calls => ?_, fun sel bytes h => ?_⟩
  · obtain hlen | hlen := Nat.lt_or_ge Config.threshold calls.flatten.length
    · rw [updates_fresh_beyond hlen]
      exact ⟨rfl, rfl, hlen⟩
    · rw [updates_fresh_within hlen]
      exact ⟨rfl, rfl, rfl, hlen⟩
  · rwa [Selector.update_of_committed (isCommitted_iff.mp h)]

/-! ### A session (R110) -/

/-- The commands of a session are those of its construction, of its calls and of its `finalize`, in this order. -/
theorem hasherSession_of_calls {c : HasherConfig} {calls : List (List Byte)} {made fed : Hasher} {first is : List Instr}
    (hmade : Hasher.construct c = (made, first)) (hfed : made.updates calls = (fed, is)) (n : Nat) :
    hasherSession c calls n =
      { commands := first ++ is ++ (fed.finalize n).issued, ending := fed.finalize n } := by
  simp only [hasherSession, hmade, hfed]

/-- Settles O58: INIT at construction, `updates_direct` for the calls, R101 for the end. -/
theorem directStrategyIssuesEveryByte : Obligations.DirectStrategyIssuesEveryByte := by
  intro sp calls n
  rw [hasherSession_of_calls (construct_direct sp) (updates_direct sp calls)]
  simp [hashCommands]

theorem issued_finalize_buffering (sp : SpongeInstance) (raw : List Byte) (n : Nat) :
    ((Hasher.adaptive { sponge := sp, phase := .buffering raw }).finalize n).issued = [] := by
  rw [finalize_buffering]
  cases Config.accelDigest raw sp.delim <;> rfl

theorem adaptiveSession_within {sp : SpongeInstance} {calls : List (List Byte)}
    (h : calls.flatten.length ≤ Config.threshold) (n : Nat) :
    hasherSession { strategy := .adaptive, sponge := sp } calls n =
      { commands := [.init sp.rate sp.delim],
        ending := (Hasher.adaptive { sponge := sp, phase := .buffering calls.flatten }).finalize n } := by
  rw [hasherSession_of_calls (construct_adaptive sp) (updates_fresh_within h), issued_finalize_buffering]
  simp

theorem adaptiveSession_beyond {sp : SpongeInstance} {calls : List (List Byte)}
    (h : Config.threshold < calls.flatten.length) (n : Nat) :
    hasherSession { strategy := .adaptive, sponge := sp } calls n =
      hasherSession { strategy := .direct, sponge := sp } calls n := by
  rw [hasherSession_of_calls (construct_adaptive sp) (updates_fresh_beyond h),
    hasherSession_of_calls (construct_direct sp) (updates_direct sp calls)]
  simp

/-- Settles O59: the session on each side of the threshold, and one legal INIT on an unlocked block. -/
theorem adaptiveStrategyTakesOnePath : Obligations.AdaptiveStrategyTakesOnePath := by
  refine fun sp calls n => ⟨fun hlen => ⟨adaptiveSession_within hlen n, fun s hopen hpos hle => ?_⟩,
    fun hlen => adaptiveSession_beyond hlen n⟩
  rw [adaptiveSession_within hlen, runCommands_singleton, exec_init_legal hopen (rateLegal_iff.mpr ⟨hpos, hle⟩)]
  rfl

end Sys2Proof.Machine
end

section
/-! PROOFS. Which error an accepted word raises on an unlocked block, and what an errored command leaves
(60_exceptions.md R112 to R118). -/

namespace Sys2Proof.Machine

/-! ### The words whose unused fields are zero (R57) -/

/-- A part of bits that are all zero is zero. -/
theorem extractLsb'_eq_zero_of_within {n start len start' len' : Nat} {x : BitVec n} (h : x.extractLsb' start len = 0)
    (hlow : start ≤ start') (hhigh : start' + len' ≤ start + len) : x.extractLsb' start' len' = 0 := by
  ext i hi
  have hbit := congrArg (BitVec.getLsbD · (start' - start + i)) h
  have hinside : start' - start + i < len := by omega
  have hplace : start + (start' - start + i) = start' + i := by omega
  simpa [hinside, hplace] using hbit

section
variable {op : BitVec 4} {w : Word}

theorem packWord_eq_of_oneOperand (hop : (opField w).toNat = op.toNat) (h : (w.extractLsb' 8 20 != 0) = false) :
    packWord op 0 (aField w) = w := by
  have hzero : w.extractLsb' 8 20 = 0 := bne_eq_false_iff_eq.mp h
  have hrsv : rsvField w = 0 := extractLsb'_eq_zero_of_within hzero (by decide) (by decide)
  have hb : bField w = 0 := extractLsb'_eq_zero_of_within hzero (by decide) (by decide)
  exact packWord_eq_iff.mpr ⟨BitVec.eq_of_toNat_eq hop, hrsv, hb, rfl⟩

theorem packWord_eq_of_noOperand (hop : (opField w).toNat = op.toNat) (h : (w.extractLsb' 0 28 != 0) = false) :
    packWord op 0 0 = w := by
  have hzero : w.extractLsb' 0 28 = 0 := bne_eq_false_iff_eq.mp h
  have hhigh : w.extractLsb' 8 20 = 0 := extractLsb'_eq_zero_of_within hzero (by decide) (by decide)
  have ha : aField w = 0 := extractLsb'_eq_zero_of_within hzero (by decide) (by decide)
  have hword := packWord_eq_of_oneOperand hop (bne_eq_false_iff_eq.mpr hhigh)
  rwa [ha] at hword

end

/-- A word of OP 0x0 to 0x6 whose unused fields are zero is a command's word: one case per row of `unusedNonzero`. -/
theorem exists_encode_of_unusedZero {w : Word} (hop : (opField w).toNat < 7) (h : unusedNonzero w = false) :
    ∃ i, encode i = w := by
  unfold unusedNonzero at h
  split at h
  next h0 => exact ⟨.nop, packWord_eq_of_noOperand h0 h⟩
  next h3 => exact ⟨.finalize, packWord_eq_of_noOperand h3 h⟩
  next h4 => exact ⟨.squeeze, packWord_eq_of_noOperand h4 h⟩
  next h5 => exact ⟨.permute, packWord_eq_of_noOperand h5 h⟩
  next h1 =>
    have hrsv : rsvField w = 0 := bne_eq_false_iff_eq.mp h
    exact ⟨.init _ _, packWord_eq_iff.mpr ⟨BitVec.eq_of_toNat_eq h1, hrsv, rfl, rfl⟩⟩
  next h2 => exact ⟨.absorb _, packWord_eq_of_oneOperand h2 h⟩
  next h6 => exact ⟨.peek _, packWord_eq_of_oneOperand h6 h⟩
  next hnone0 hnone3 hnone4 hnone5 hnone1 hnone2 hnone6 => grind

/-- R57, R60: the decoder answers Reserved only where an unused field is not zero. -/
theorem unusedNonzero_of_reserved {w : Word} (h : decode w = .reserved) : unusedNonzero w = true := by
  by_contra hzero
  obtain ⟨hop, -⟩ := decode_eq_reserved_iff.mp h
  obtain ⟨i, rfl⟩ := exists_encode_of_unusedZero hop (Bool.eq_false_iff.mpr hzero)
  cases h.symm.trans (decode_encode i)

/-! ### The first error of a word (R114, R116) -/

/-- The error a command raises on an unlocked block, `none` where it has its effect (R114). -/
def commandError (i : Instr) (s : State) : ErrCode :=
  match i with
  | .nop => .none
  | .init rate _ => if rate = 0#8 ∨ 200 < rate.toNat then .badRate else .none
  | .absorb _ => if s.fsm = .absorbing then .none else .badState
  | .finalize => if s.fsm = .absorbing then .none else .badState
  | .squeeze => if s.fsm = .squeezing then .none else .badState
  | .permute => .none
  | .peek index => if 199 < index.toNat then .badIndex else .none

@[simp] theorem opField_encode (i : Instr) : opField (encode i) = i.opcode := by
  cases i <;> exact Laws.opField_packWord _ _ _

/-- A command's word has neither of the decoder's errors, so its first error is the command's (R116). -/
theorem firstError_encode (i : Instr) (s : State) : firstError (encode i) s = commandError i s := by
  cases i with
  | nop | absorb | finalize | squeeze | permute =>
    simp [firstError, unusedNonzero_encode, Instr.opcode, commandError]
  | init rate delim =>
    have hrate : (encode (.init rate delim)).extractLsb' 0 8 = rate := aField_packWord 1 delim rate
    simp [firstError, unusedNonzero_encode, Instr.opcode, commandError, hrate]
  | peek index =>
    have hindex : (encode (.peek index)).extractLsb' 0 8 = index := aField_packWord 6 0 index
    simp [firstError, unusedNonzero_encode, Instr.opcode, commandError, hindex]

theorem firstError_of_reserved {w : Word} (h : decode w = .reserved) (s : State) :
    firstError w s = .reservedField := by
  obtain ⟨hop, -⟩ := decode_eq_reserved_iff.mp h
  simp [firstError, Nat.not_le.mpr hop, unusedNonzero_of_reserved h]

theorem firstError_of_illegal {w : Word} (h : decode w = .illegal) (s : State) :
    firstError w s = .illegalOpcode :=
  if_pos (decode_eq_illegal_iff.mp h)

/-! ### What a command does on an unlocked block (R113, R117, R118) -/

theorem rateLegal_eq_false_iff {rate : Byte} : rateLegal rate = false ↔ rate = 0#8 ∨ 200 < rate.toNat := by
  have hzero : rate = 0#8 ↔ rate.toNat = 0 := BitVec.toNat_inj.symm
  rw [Bool.eq_false_iff, ne_eq, rateLegal_iff, hzero]
  omega

/-- A command that has its effect has no error. -/
theorem Effect.commandError_eq_none {i : Instr} {s t : State} (h : Effect s i t) : commandError i s = .none := by
  cases h with
  | nop | permute => rfl
  | init legal => exact if_neg (mt rateLegal_eq_false_iff.mpr (by simp [legal]))
  | absorb hfsm | finalize hfsm | squeeze hfsm => exact if_pos hfsm
  | peek hindex => exact if_neg (by omega)

/-- An effect leaves an unlocked block unlocked. -/
theorem Effect.err_eq_false {i : Instr} {s t : State} (heffect : Effect s i t) (hopen : s.err = false) :
    t.err = false := by
  obtain ⟨herr, -⟩ := heffect.error_record
  exact herr.trans hopen

/-- On an unlocked block a command has its effect, or records its error and does nothing else but its 0x00 byte (R113,
R117, R118). -/
theorem exec_effect_or_commandError {i : Instr} {s t : State} (hopen : s.err = false) (h : exec i s = .next t) :
    Effect s i t ∨
      ∃ code, code ≠ .none ∧ commandError i s = code ∧ t = (s.setError code).emitZeroIf (responds i) := by
  have hunlocked {p : Prop} (hlocked : s.err = true) : p := absurd hlocked (Bool.eq_false_iff.mp hopen)
  cases i with
  | nop =>
    obtain rfl := execNop_cases h
    exact .inl .nop
  | init rate delim =>
    obtain ⟨hlocked, -⟩ | ⟨-, legal, rfl⟩ | ⟨-, hillegal, rfl⟩ := execInit_cases h
    · exact hunlocked hlocked
    · exact .inl (.init legal)
    · exact .inr ⟨.badRate, by decide, if_pos (rateLegal_eq_false_iff.mp hillegal), rfl⟩
  | absorb data =>
    obtain ⟨hlocked, -⟩ | ⟨-, hfsm, rfl⟩ | ⟨-, hfsm, hcursor, rfl⟩ := execAbsorb_cases h
    · exact hunlocked hlocked
    · exact .inr ⟨.badState, by decide, if_neg hfsm, rfl⟩
    · exact .inl (.absorb hfsm hcursor)
  | finalize =>
    obtain ⟨hlocked, -⟩ | ⟨-, hfsm, rfl⟩ | ⟨-, hfsm, hcursor, hrate, rfl⟩ := execFinalize_cases h
    · exact hunlocked hlocked
    · exact .inr ⟨.badState, by decide, if_neg hfsm, rfl⟩
    · exact .inl (.finalize hfsm hcursor hrate)
  | squeeze =>
    obtain ⟨hlocked, -⟩ | ⟨-, hfsm, rfl⟩ | ⟨-, hfsm, hcursor, rfl⟩ := execSqueeze_cases h
    · exact hunlocked hlocked
    · exact .inr ⟨.badState, by decide, if_neg hfsm, rfl⟩
    · exact .inl (.squeeze hfsm hcursor)
  | permute =>
    obtain ⟨hlocked, -⟩ | ⟨-, rfl⟩ := execPermute_cases h
    · exact hunlocked hlocked
    · exact .inl .permute
  | peek index =>
    obtain ⟨hlocked, -⟩ | ⟨-, hindex, rfl⟩ | ⟨-, hindex, rfl⟩ := execPeek_cases h
    · exact hunlocked hlocked
    · exact .inr ⟨.badIndex, by decide, if_pos hindex, rfl⟩
    · exact .inl (.peek hindex)

/-! ### What a word does on an unlocked block (R113, R117, R118) -/

theorem wordResponds_encode (i : Instr) : wordResponds (encode i) = responds i := by
  rw [wordResponds, opField_encode]
  cases i <;> rfl

/-- An Illegal word gives no byte: its OP is neither 0x4 nor 0x6. -/
theorem wordResponds_of_illegal {w : Word} (h : decode w = .illegal) : wordResponds w = false := by
  have hop := decode_eq_illegal_iff.mp h
  simp only [wordResponds, Bool.or_eq_false_iff, beq_eq_false_iff_ne]
  constructor <;> intro heq <;> simp [heq] at hop

/-- On an unlocked block a word is a command that has its effect, or records its first error and does nothing else but
its 0x00 byte. -/
theorem acceptWord_effect_or_firstError {w : Word} {s t : State} (hopen : s.err = false)
    (h : acceptWord w s = .next t) :
    (firstError w s = .none ∧ ∃ i, Effect s i t) ∨
      (firstError w s ≠ .none ∧ t = (s.setError (firstError w s)).emitZeroIf (wordResponds w)) := by
  obtain ⟨i, hdecode, hexec⟩ | ⟨hreserved, hreject⟩ | ⟨hillegal, hreject⟩ := acceptWord_cases h
  · rw [← encode_of_decode hdecode, firstError_encode, wordResponds_encode]
    obtain heffect | ⟨code, hcode, rfl, rfl⟩ := exec_effect_or_commandError hopen hexec
    · exact .inl ⟨heffect.commandError_eq_none, i, heffect⟩
    · exact .inr ⟨hcode, rfl⟩
  · rw [rejectWord_open hopen] at hreject
    rw [firstError_of_reserved hreserved]
    exact .inr ⟨by decide, (Host.Outcome.next.inj hreject).symm⟩
  · rw [rejectWord_open hopen] at hreject
    rw [firstError_of_illegal hillegal, wordResponds_of_illegal hillegal]
    exact .inr ⟨by decide, (Host.Outcome.next.inj hreject).symm⟩

/-- Settles O17: the word completes by the invariant of R21, and its error record is that of its effect or of its first
error. -/
theorem firstErrorIsRecorded : Obligations.FirstErrorIsRecorded := by
  intro w s hinv hopen
  obtain ⟨t, h⟩ := acceptWord_completes w hinv.fsm
  refine ⟨t, h, ?_⟩
  obtain ⟨hnone, i, heffect⟩ | ⟨herror, rfl⟩ := acceptWord_effect_or_firstError hopen h
  · obtain ⟨herr, hcode⟩ := heffect.error_record
    have hrecord : s.errCode = .none := hinv.err.mpr hopen
    simp [hnone, herr, hcode, hrecord, hopen]
  · simp [herror]

theorem emitZeroIf_eq_ite (r : Bool) (s : State) : s.emitZeroIf r = if r then responded 0 s else s := by
  cases r
  · rfl
  · exact emit_eq_responded 0 s

/-- A word's response, if it gives one, is 0x00 and its OP is 0x4 or 0x6. -/
theorem emitZeroIf_wordResponds_cases (w : Word) (s : State) :
    s.emitZeroIf (wordResponds w) = s ∨
      (opField w = 4 ∨ opField w = 6) ∧ s.emitZeroIf (wordResponds w) = responded 0 s := by
  obtain ⟨hresponds, hsilent⟩ := emitZeroIf_wordResponds w s
  by_cases hop : opField w = 4 ∨ opField w = 6
  · exact .inr ⟨hop, hresponds hop⟩
  · obtain ⟨h4, h6⟩ := not_or.mp hop
    exact .inl (hsilent h4 h6)

/-- Settles O18: an effect leaves the block unlocked, so the command or word had an error, which is recorded. -/
theorem erroredCommandHasNoOtherEffect : Obligations.ErroredCommandHasNoOtherEffect := by
  refine ⟨fun i s t hopen h herr => ?_, fun w s t hopen h herr => ?_⟩
  · obtain heffect | ⟨code, hcode, -, rfl⟩ := exec_effect_or_commandError hopen h
    · cases herr.symm.trans (heffect.err_eq_false hopen)
    · exact ⟨code, hcode, emitZeroIf_eq_ite (responds i) (errored code s)⟩
  · obtain ⟨-, i, heffect⟩ | ⟨hcode, rfl⟩ := acceptWord_effect_or_firstError hopen h
    · cases herr.symm.trans (heffect.err_eq_false hopen)
    · exact ⟨firstError w s, hcode, emitZeroIf_wordResponds_cases w (errored (firstError w s) s)⟩

end Sys2Proof.Machine
end

section
/-! PROOFS. The lock, and what no event but a command and a reset changes (60_exceptions.md R115, R118, R120, R127). -/

namespace Sys2Proof.Machine

/-! ### A locked block (R115, R118) -/

/-- On a locked block every word is discarded, and answers 0x00 if it has a response. -/
theorem acceptWord_locked {s : State} (w : Word) (h : s.err = true) :
    acceptWord w s = .next (s.emitZeroIf (wordResponds w)) := by
  cases hdecode : decode w with
  | instr i =>
    rw [acceptWord_of_decode hdecode, exec_locked i h, ← encode_of_decode hdecode, wordResponds_encode]
  | reserved => rw [acceptWord_of_reserved hdecode, rejectWord_locked h]
  | illegal => rw [acceptWord_of_illegal hdecode, rejectWord_locked h, wordResponds_of_illegal hdecode]

/-! ### The registers a step without a command or a reset keeps (R127) -/

/-- `t` has the sponge registers, the error record and the round counter of `s`. -/
structure KeepsRegisters (s t : State) : Prop where
  lanes : t.lanes = s.lanes
  rate : t.rate = s.rate
  delim : t.delim = s.delim
  cursor : t.cursor = s.cursor
  fsm : t.fsm = s.fsm
  err : t.err = s.err
  errCode : t.errCode = s.errCode
  round : t.round = s.round

theorem keepsRegisters_refl (s : State) : KeepsRegisters s s := ⟨rfl, rfl, rfl, rfl, rfl, rfl, rfl, rfl⟩

/-- What the host does next is no register. -/
theorem KeepsRegisters.of_setHost {s t : State} {rest : List HostEvent} (h : KeepsRegisters { s with host := rest } t) :
    KeepsRegisters s t :=
  ⟨h.lanes, h.rate, h.delim, h.cursor, h.fsm, h.err, h.errCode, h.round⟩

theorem keepsRegisters_emitZeroIf (r : Bool) (s : State) : KeepsRegisters s (s.emitZeroIf r) := by
  constructor <;> simp

theorem keepsRegisters_setRspReady (level : Bool) (s : State) : KeepsRegisters s (s.setRspReady level) := by
  constructor <;> simp [State.setRspReady]

theorem keepsRegisters_readStatus (s : State) : KeepsRegisters s s.readStatus :=
  ⟨rfl, rfl, rfl, rfl, rfl, rfl, rfl, rfl⟩

/-- A step that is no reset edge keeps the registers, or accepts a word. -/
theorem step_keepsRegisters_or_accepts {s t : State} (h : step s = .next t)
    (hnoReset : ∀ rest, s.host ≠ .reset :: rest) :
    KeepsRegisters s t ∨
      ∃ w rest, (s.host = .command w :: rest ∨ s.host = .commandWithdrawn w :: rest) ∧
        acceptWord w { s with host := rest } = .next t := by
  obtain ⟨-, rfl⟩ | ⟨w, rest, -, -, rfl⟩ | ⟨w, rest, hoffer, -, haccept⟩ | ⟨level, rest, -, rfl⟩ |
    ⟨rest, hreset, -⟩ | ⟨rest, -, rfl⟩ := step_cases h
  · exact .inl (keepsRegisters_refl t)
  · exact .inl (keepsRegisters_refl t)
  · exact .inr ⟨w, rest, hoffer, haccept⟩
  · exact .inl (keepsRegisters_setRspReady level { s with host := rest }).of_setHost
  · exact absurd hreset (hnoReset rest)
  · exact .inl (keepsRegisters_readStatus { s with host := rest }).of_setHost

/-- Settles O31: without a command and without a reset a step is one of those that keep the registers. -/
theorem stateHoldsWithoutCommand : Obligations.StateHoldsWithoutCommand := by
  refine ⟨fun s hhost => by simp [step, hhost], fun s t h hnoCommand hnoReset => ?_⟩
  obtain ⟨hlanes, hrate, hdelim, hcursor, hfsm, herr, hcode, hround⟩ | ⟨w, rest, hoffer, -⟩ :=
    step_keepsRegisters_or_accepts h hnoReset
  · exact ⟨hlanes, hrate, hdelim, hcursor, hfsm, herr, hcode, hround⟩
  · obtain ⟨hno, hnoWithdrawn⟩ := hnoCommand w rest
    exact absurd hoffer (not_or.mpr ⟨hno, hnoWithdrawn⟩)

/-! ### The lock lasts (R115, R120) -/

/-- On a locked block a word is discarded, so that every step but a reset keeps the registers. -/
theorem step_locked_keepsRegisters {s t : State} (hlocked : s.err = true) (h : step s = .next t)
    (hnoReset : ∀ rest, s.host ≠ .reset :: rest) : KeepsRegisters s t := by
  obtain hkeeps | ⟨w, rest, -, haccept⟩ := step_keepsRegisters_or_accepts h hnoReset
  · exact hkeeps
  · rw [acceptWord_locked (s := { s with host := rest }) w hlocked] at haccept
    cases haccept
    exact (keepsRegisters_emitZeroIf (wordResponds w) { s with host := rest }).of_setHost

/-- Settles O19: the lock's answer to a command and to a word, and `step_locked_keepsRegisters`. -/
theorem lockedBlockDiscards : Obligations.LockedBlockDiscards := by
  refine ⟨fun i s hlocked => ?_, fun w s hlocked => ?_, fun s t hlocked h hnoReset => ?_⟩
  · rw [exec_locked i hlocked, emitZeroIf_eq_ite]
  · rw [acceptWord_locked w hlocked, Host.Outcome.next.injEq, Host.Outcome.next.injEq]
    exact emitZeroIf_wordResponds_cases w s
  · obtain ⟨hlanes, hrate, hdelim, hcursor, hfsm, herr, hcode, -⟩ := step_locked_keepsRegisters hlocked h hnoReset
    exact ⟨herr.trans hlocked, hcode, hlanes, hrate, hdelim, hcursor, hfsm⟩

/-- A step serves the host's events in order: what is left was there before. -/
theorem step_host_subset {s t : State} (h : step s = .next t) : t.host ⊆ s.host := by
  obtain ⟨-, rfl⟩ | ⟨w, rest, -, -, rfl⟩ | ⟨w, rest, hoffer, -, haccept⟩ | ⟨level, rest, hhost, rfl⟩ |
    ⟨rest, hhost, rfl⟩ | ⟨rest, hhost, rfl⟩ := step_cases h
  · exact List.Subset.refl _
  · exact List.Subset.refl _
  · rw [(acceptWord_keeps_host haccept).1]
    obtain hhost | hhost := hoffer <;> simp [hhost]
  · simp [hhost, State.setRspReady]
  · simp [hhost, State.resetEdge]
  · simp [hhost, State.readStatus]

/-- Settles O20: by induction on the number of steps; each keeps the lock and the code, and no reset comes in. -/
theorem firstErrorIsKept : Obligations.FirstErrorIsKept := by
  intro n
  induction n with
  | zero =>
    intro s t hlocked _ hrun
    cases hrun
    exact ⟨hlocked, rfl⟩
  | succ n ih =>
    intro s t hlocked hnoReset hrun
    change runSteps (n + 1) s = .next t at hrun
    rw [runSteps_succ] at hrun
    obtain ⟨u, hstep, hrest⟩ := andThen_eq_next.mp hrun
    have hkeeps : KeepsRegisters s u := step_locked_keepsRegisters hlocked hstep fun rest hhost =>
      hnoReset .reset (by simp [hhost]) rfl
    have hnoLater : ∀ e ∈ u.host, e ≠ .reset := fun e he => hnoReset e (step_host_subset hstep he)
    obtain ⟨herr, hcode⟩ := ih u t (hkeeps.err.trans hlocked) hnoLater hrest
    exact ⟨herr, hcode.trans hkeeps.errCode⟩

end Sys2Proof.Machine
end

section
/-! PROOFS. No sequence of computations raises an error (45_host_interface.md R111). -/

namespace Sys2Proof.Machine

theorem runCommands_keeps_portIdle {is : List Instr} {s t : State} (h : runCommands is s = .next t)
    (hidle : PortIdle s) : PortIdle t := by
  induction is generalizing s with
  | nil => cases h; exact hidle
  | cons i is ih =>
    obtain ⟨u, hexec, hrest⟩ := andThen_eq_next.mp h
    exact ih hrest (exec_keeps_portIdle hexec hidle)

theorem commands_without_output (rate delim : Byte) (bytes : List Byte) :
    Computation.commands ⟨rate, delim, bytes, none⟩ = .init rate delim :: updateCommands bytes := by
  simp [Computation.commands]

theorem commands_with_output (rate delim : Byte) (bytes : List Byte) (n : Nat) :
    Computation.commands ⟨rate, delim, bytes, some n⟩ = hashCommands rate delim bytes n := rfl

/-- One computation completes without an error: its input by O48, and with an output by O50. -/
theorem runCommands_computation {c : Computation} {s : State} (hopen : s.err = false) (hidle : PortIdle s)
    (hpos : 1 ≤ c.rate.toNat) (hle : c.rate.toNat ≤ 200) :
    ∃ t, runCommands c.commands s = .next t ∧ t.err = false := by
  obtain ⟨rate, delim, bytes, output⟩ := c
  cases output with
  | none =>
    obtain ⟨r, f, habsorb⟩ := absorbSequenceFillsBlocks rate delim bytes s hopen hpos hle
    rw [commands_without_output]
    exact ⟨_, habsorb, by simpa only using hopen⟩
  | some n =>
    obtain ⟨t, hrun, -, -, hopenT⟩ := blockComputesTheSponge rate delim bytes n s hopen hidle hpos hle
    rw [commands_with_output]
    exact ⟨t, hrun, hopenT⟩

/-- Settles O52: by induction on the computations; each leaves the block unlocked and its port idle for the next. -/
theorem legalSequencesRaiseNoError : Obligations.LegalSequencesRaiseNoError := by
  intro cs
  induction cs with
  | nil => exact fun s hopen _ _ => ⟨s, rfl, hopen⟩
  | cons c cs ih =>
    intro s hopen hidle hlegal
    obtain ⟨⟨hpos, hle⟩, hlegalRest⟩ := List.forall_mem_cons.mp hlegal
    obtain ⟨u, hfirst, hopenU⟩ := runCommands_computation hopen hidle hpos hle
    obtain ⟨t, hrest, hopenT⟩ := ih u hopenU (runCommands_keeps_portIdle hfirst hidle) hlegalRest
    exact ⟨t, by rw [List.flatMap_cons, runCommands_append_of_next hfirst, hrest], hopenT⟩

end Sys2Proof.Machine
end

section
/-! PROOFS. How many permutations each command runs (70_reset_and_hazards.md R141). -/

namespace Sys2Proof.Machine

/-! ### A command that is discarded or errored runs none (R115, R117) -/

theorem no_rounds_of_locked {s : State} (i : Instr) (hlocked : s.err = true) :
    permutations i s = 0 ∧ lanesBeforeRounds i s = s.lanes :=
  ⟨if_pos hlocked, if_pos hlocked⟩

/-- Where a command has an error, both tables take the branch of a command that does nothing to the lanes. -/
theorem no_rounds_of_commandError {i : Instr} {s : State} (herror : commandError i s ≠ .none) :
    permutations i s = 0 ∧ lanesBeforeRounds i s = s.lanes := by
  cases i with
  | nop | permute => exact absurd rfl herror
  | init rate delim =>
    have hbad : rate = 0#8 ∨ 200 < rate.toNat := by_contra fun hgood => herror (if_neg hgood)
    have hillegal : ¬(1 ≤ rate.toNat ∧ rate.toNat ≤ 200) := by
      rw [← rateLegal_iff, rateLegal_eq_false_iff.mpr hbad]
      decide
    simp [permutations, lanesBeforeRounds, hillegal]
  | absorb | finalize =>
    have hfsm : s.fsm ≠ .absorbing := by simpa [commandError] using herror
    simp [permutations, lanesBeforeRounds, hfsm]
  | squeeze =>
    have hfsm : s.fsm ≠ .squeezing := by simpa [commandError] using herror
    simp [permutations, lanesBeforeRounds, hfsm]
  | peek => simp [permutations, lanesBeforeRounds]

/-! ### A command that has its effect -/

/-- ABSORB permutes exactly at the byte that fills the block (R84). -/
theorem advanceAbsorb_lanes (s : State) :
    s.advanceAbsorb.lanes = keccakF^[if s.cursor + 1 = s.rate then 1 else 0] s.lanes := by
  by_cases hfull : s.cursor + 1 = s.rate
  · rw [advanceAbsorb_full hfull, if_pos hfull]
    rfl
  · rw [advanceAbsorb_room hfull, if_neg hfull]
    rfl

section
variable {s : State} (data : Byte) (hopen : s.err = false) (hfsm : s.fsm = .absorbing)
include hopen hfsm

theorem permutations_absorb : permutations (.absorb data) s = if s.cursor + 1 = s.rate then 1 else 0 :=
  (if_neg (Bool.eq_false_iff.mp hopen)).trans (if_congr (and_iff_right hfsm) rfl rfl)

theorem lanesBeforeRounds_absorb (hcursor : s.cursor.toNat < 200) :
    lanesBeforeRounds (.absorb data) s = xorStateByte s.lanes ⟨s.cursor.toNat, hcursor⟩ data :=
  (if_neg (Bool.eq_false_iff.mp hopen)).trans
    ((if_pos hfsm).trans (xorStateByte_eq_lanesOfBytes s.lanes ⟨s.cursor.toNat, hcursor⟩ data).symm)

end

/-- SQUEEZE permutes exactly at a used-up block (R88). -/
theorem startBlock_lanes (s : State) :
    s.startBlock.lanes = keccakF^[if s.cursor = s.rate then 1 else 0] s.lanes := by
  by_cases hused : s.cursor = s.rate
  · simp [startBlock_used hused, hused]
  · simp [startBlock_unused hused, hused]

/-- FINALIZE's two byte writes are the padding of R86, its rate being at least 1 by the invariant of R21. -/
theorem finalize_writes_eq_padded {s : State} (hfsm : s.fsm = .absorbing) (hinv : FsmInv s)
    (hcursor : s.cursor.toNat < 200) (hrate : (s.rate - 1).toNat < 200) :
    xorStateByte (xorStateByte s.lanes ⟨s.cursor.toNat, hcursor⟩ s.delim) ⟨(s.rate - 1).toNat, hrate⟩ 0x80 =
      padded s.rate.toNat s.cursor.toNat s.delim s.lanes := by
  obtain ⟨hpos, -, -⟩ := (fsmInv_of_absorbing hfsm).mp hinv
  exact xorStateByte_xorStateByte_eq_padded s.lanes s.delim (BitVec.toNat_sub_of_le (BitVec.le_def.mpr hpos))

/-- An effect's lanes are those after its byte writes, permuted as often as R141's table says. -/
theorem Effect.lanes_eq {i : Instr} {s t : State} (heffect : Effect s i t) (hopen : s.err = false) (hinv : FsmInv s) :
    t.lanes = keccakF^[permutations i s] (lanesBeforeRounds i s) := by
  cases heffect with
  | nop => simp [permutations, lanesBeforeRounds]
  | init legal => simp [permutations, lanesBeforeRounds, hopen, rateLegal_iff.mp legal]
  | absorb hfsm hcursor =>
    rw [permutations_absorb _ hopen hfsm, lanesBeforeRounds_absorb _ hopen hfsm hcursor]
    exact advanceAbsorb_lanes _
  | finalize hfsm hcursor hrate =>
    rw [finalize_writes_eq_padded hfsm hinv]
    simp [permutations, lanesBeforeRounds, hopen, hfsm]
  | squeeze hfsm hcursor => simp [startBlock_lanes, permutations, lanesBeforeRounds, hopen, hfsm]
  | permute => simp [permutations, lanesBeforeRounds, hopen]
  | peek hindex => simp [permutations, lanesBeforeRounds]

/-- Settles O28: the lock and an error leave the lanes and count no permutation; an effect is `Effect.lanes_eq`. -/
theorem permutationsPerCommand : Obligations.PermutationsPerCommand := by
  intro i s t hinv h
  refine ⟨?_, permutations_le_one i s⟩
  cases hopen : s.err with
  | true =>
    obtain ⟨hcount, hlanes⟩ := no_rounds_of_locked i hopen
    rw [exec_locked i hopen] at h
    cases h
    simp [hcount, hlanes]
  | false =>
    obtain heffect | ⟨code, hcode, rfl, rfl⟩ := exec_effect_or_commandError hopen h
    · exact heffect.lanes_eq hopen hinv
    · obtain ⟨hcount, hlanes⟩ := no_rounds_of_commandError hcode
      simp [hcount, hlanes]

end Sys2Proof.Machine
end

section
/-! PROOFS. A reset edge, and a host that breaks its hold of an offered word (70_reset_and_hazards.md R128, R129,
R143). -/

namespace Sys2Proof.Machine

/-! ### The reset edge (R128, R129) -/

/-- The reset edge leaves the reset state but for the hidden counter and what the host holds (R30, log entry 4). -/
theorem resetEdge_eq (s : State) :
    s.resetEdge = { State.reset with
      round := Config.freeRound s.free, free := s.free + 1, rspReady := s.rspReady, host := s.host,
      responses := s.responses, statusReads := s.statusReads } := rfl

theorem step_reset {s : State} {rest : List HostEvent} (hhost : s.host = .reset :: rest) :
    step s = .next (State.resetEdge { s with host := rest }) := by
  simp [step, hhost, serveEvent]

/-- Settles O32: `rst` masks both handshakes, and the step is the reset edge, which leaves `busy` 0. -/
theorem resetEdgeGivesResetValues : Obligations.ResetEdgeGivesResetValues := by
  intro s rest hhost
  have hstep := step_reset hhost
  rw [resetEdge_eq] at hstep
  refine ⟨by simp [cmdReady], rfl, _, _, hstep, fun t ht => ?_⟩
  cases hstep.symm.trans ht
  rfl

/-- Settles O33: with `rst` 1 and the hold kept, whatever the chip is doing, the edge is the reset move. -/
theorem resetAbandonsCommandInProgress : Obligations.ResetAbandonsCommandInProgress := by
  intro c p hhold hrst
  have hedge := edge_of_move hhold (.reset hrst)
  rw [resetEdge_eq] at hedge
  exact ⟨_, _, hedge⟩

/-! ### A broken hold (R143) -/

theorem step_withdrawn {s : State} {w : Word} {rest : List HostEvent} (hhost : s.host = .commandWithdrawn w :: rest)
    (hbusy : s.busy = true) : step s = .refused .offeredWordWithdrawn := by
  simp [step, hhost, serveEvent, cmdReady, hbusy]

/-- A held word is dropped when it is not offered any more or another is. -/
theorem dropsWord_some_iff {p : Pins} {w : Word} :
    dropsWord p (some w) = true ↔ p.cmdValid = false ∨ p.cmdData ≠ w := by
  simp [dropsWord, Classical.or_iff_not_imp_left]

theorem edge_of_brokenHold {p : Pins} {c : Chip} (hbroken : brokenHold p c = true) :
    edge p c = .refused .offeredWordWithdrawn := if_pos hbroken

/-- Settles O37: the withdrawn word at a busy block, and the broken hold, which an edge looks at first. -/
theorem withdrawnWordIsRefused : Obligations.WithdrawnWordIsRefused := by
  refine ⟨fun s w rest => step_withdrawn, fun p c w hoffered hbroken => edge_of_brokenHold ?_⟩
  rw [brokenHold_eq_dropsWord hoffered]
  exact dropsWord_some_iff.mpr hbroken

end Sys2Proof.Machine
end

section
/-! PROOFS. The decode vectors (95_test_vectors.md section 5). -/

namespace Sys2Proof

/-- Settles O13: an accepted row's word is its command's encoding, no row of the opcode table covers a Reserved one, and
an Illegal one has OP 0x7 or more; each is a fact about the literal word. -/
theorem sampleWordsDecode : Obligations.SampleWordsDecode := by
  simp only [Obligations.SampleWordsDecode, decode_eq_instr_iff, decode_eq_reserved_iff, decode_eq_illegal_iff]
  decide

end Sys2Proof
end
